-- ==== Sys2Proof/Word.lean ====
section
/-! DEFINITION. The word types of the engine: Words, bytes and 64-bit control quantities. -/

namespace Sys2Proof

/-- A Word: 32 bits, addition wraps modulo 2^32 (R110). -/
abbrev Word := BitVec 32

/-- A byte of a message or of the block buffer (R11). -/
abbrev Byte := BitVec 8

/-- A 64-bit control register: `LEN`, `rem`, `blkcnt` (R8). -/
abbrev DWord := BitVec 64

end Sys2Proof
end

