-- ==== Sys2Proof/Syntax.lean ====
section
/-! DEFINITION. The 23 instructions: 15 host transactions (R90) and 8 micro-operations (R92). -/

namespace Sys2Proof

/-- One constructor per row of the opcode table.  Operand types hold exactly the values of R89, so every term is an
instruction the encoding can express. -/
inductive Instr where
  /-- START: begin a digest run of `LEN` bytes (R220). -/
  | start
  /-- ABORT: abandon the digest run (R221). -/
  | abort
  /-- COMPRESS: apply the compression function once (R222). -/
  | compress
  /-- RDSTAT: read `STATUS` (R223). -/
  | rdstat
  /-- RDLENL: read `LEN[31:0]` (R227). -/
  | rdlenl
  /-- WRLENL v: write `LEN[31:0]` (R229). -/
  | wrlenl (v : Word)
  /-- RDLENH: read `LEN[63:32]` (R228). -/
  | rdlenh
  /-- WRLENH v: write `LEN[63:32]` (R230). -/
  | wrlenh (v : Word)
  /-- WRB b: the next message byte (R225). -/
  | wrb (b : Byte)
  /-- RDCNTL: read `blkcnt[31:0]` (R235). -/
  | rdcntl
  /-- RDCNTH: read `blkcnt[63:32]` (R236). -/
  | rdcnth
  /-- RDH i: read `H[i]` (R231). -/
  | rdh (i : Fin 8)
  /-- WRH i, v: write `H[i]` (R232). -/
  | wrh (i : Fin 8) (v : Word)
  /-- RDBLK i: read Word `i` of the block buffer (R233). -/
  | rdblk (i : Fin 16)
  /-- WRBLK i, v: write Word `i` of the block buffer (R234). -/
  | wrblk (i : Fin 16) (v : Word)
  /-- SCHED: one Word of the message schedule (R185). -/
  | sched
  /-- LOADV: load the working variables (R186). -/
  | loadv
  /-- ROUND: one round (R187). -/
  | round
  /-- FEED: feed-forward (R188). -/
  | feed
  /-- PAD80: append the byte 0x80 (R161). -/
  | pad80
  /-- PADZ: append a zero byte (R162). -/
  | padz
  /-- PADLEN: write the length field and emit the last block (R163). -/
  | padlen
  /-- FINISH: the digest run is complete (R164). -/
  | finish
  deriving DecidableEq, Repr

end Sys2Proof
end

