-- ==== Sys2Proof/WellFormed.lean ====
section
/-! DEFINITION. Well-formed requests: the six ways a request word is malformed (R66, R93), one check each.
An `Instr` needs no check of its own: its operand types hold exactly the operands of R89.  The checks here are written
from R52 and R66, the decoder from R90; that the two agree is an obligation. -/

namespace Sys2Proof

/-- `addr[1:0] ≠ 0` (R63). -/
def Request.misaligned (q : BitVec 40) : Bool := decide (q.extractLsb' 32 2 ≠ 0#2)

/-- The reserved address `0x1C`, in either direction (R52). -/
def Request.reservedAddress (q : BitVec 40) : Bool := decide (q.extractLsb' 32 7 = 0x1C#7)

/-- A read of `CMD` or `DIN`, which are write-only (R52). -/
def Request.readsWriteOnly (q : BitVec 40) : Bool :=
  !q.getLsbD 39 && (decide (q.extractLsb' 32 7 = 0x00#7) || decide (q.extractLsb' 32 7 = 0x10#7))

/-- A write of `STATUS`, `BLKCNT_LO` or `BLKCNT_HI`, which are read-only (R52). -/
def Request.writesReadOnly (q : BitVec 40) : Bool :=
  q.getLsbD 39 && (decide (q.extractLsb' 32 7 = 0x04#7) || decide (q.extractLsb' 32 7 = 0x14#7)
    || decide (q.extractLsb' 32 7 = 0x18#7))

/-- A write of `CMD` whose data is not 1, 2 or 3 (R87). -/
def Request.badCommand (q : BitVec 40) : Bool :=
  q.getLsbD 39 && decide (q.extractLsb' 32 7 = 0x00#7) && decide (q.extractLsb' 0 32 ≠ 1#32)
    && decide (q.extractLsb' 0 32 ≠ 2#32) && decide (q.extractLsb' 0 32 ≠ 3#32)

/-- A write of `DIN` with a bit of `wdata[31:8]` set (R88). -/
def Request.badByte (q : BitVec 40) : Bool :=
  q.getLsbD 39 && decide (q.extractLsb' 32 7 = 0x10#7) && decide (q.extractLsb' 8 24 ≠ 0#24)

/-- A request word with none of the six defects of R66. -/
def Request.wellFormed (q : BitVec 40) : Bool :=
  !Request.misaligned q && !Request.reservedAddress q && !Request.readsWriteOnly q && !Request.writesReadOnly q
    && !Request.badCommand q && !Request.badByte q

end Sys2Proof
end

