-- ==== Sys2Proof/Decode.lean ====
section
/-! DEFINITION. The decoder of request words (R90), the selector of micro-operations (R92), the encoder, and the rows
of the opcode table (R98). -/

namespace Sys2Proof

/-- `we`, bit 39 of a request (R80). -/
def Request.we (q : BitVec 40) : BitVec 1 := q.extractLsb' 39 1

/-- `addr[6:0]`, bits 38:32 of a request (R80). -/
def Request.addr (q : BitVec 40) : BitVec 7 := q.extractLsb' 32 7

/-- `wdata[31:0]`, bits 31:0 of a request (R80). -/
def Request.wdata (q : BitVec 40) : Word := q.extractLsb' 0 32

/-- `top = q[39:32]`, which is `we` and `addr` together (R90). -/
def Request.top (q : BitVec 40) : BitVec 8 := q.extractLsb' 32 8

/-- Register index of `HASHi`: `addr[4:2]` (R89). -/
def Request.hashIndex (q : BitVec 40) : Fin 8 := (q.extractLsb' 34 3).toFin

/-- Register index of `BLKi`: `addr[5:2]` (R89). -/
def Request.blockIndex (q : BitVec 40) : Fin 16 := (q.extractLsb' 34 4).toFin

/-- The request decoder, the decision list of R90 line by line; `none` is ILLEGAL.  Total on every 40-bit word (R91). -/
def decode (q : BitVec 40) : Option Instr :=
  if (Request.addr q).extractLsb' 0 2 ≠ 0#2 then none
  else if Request.top q = 0x80#8 ∧ Request.wdata q = 1#32 then some .start
  else if Request.top q = 0x80#8 ∧ Request.wdata q = 2#32 then some .abort
  else if Request.top q = 0x80#8 ∧ Request.wdata q = 3#32 then some .compress
  else if Request.top q = 0x80#8 then none
  else if Request.top q = 0x04#8 then some .rdstat
  else if Request.top q = 0x08#8 then some .rdlenl
  else if Request.top q = 0x88#8 then some (.wrlenl (Request.wdata q))
  else if Request.top q = 0x0C#8 then some .rdlenh
  else if Request.top q = 0x8C#8 then some (.wrlenh (Request.wdata q))
  else if Request.top q = 0x90#8 ∧ (Request.wdata q).extractLsb' 8 24 = 0#24 then
    some (.wrb ((Request.wdata q).extractLsb' 0 8))
  else if Request.top q = 0x90#8 then none
  else if Request.top q = 0x14#8 then some .rdcntl
  else if Request.top q = 0x18#8 then some .rdcnth
  else if Request.we q = 0#1 ∧ (Request.addr q).extractLsb' 5 2 = 0b01#2 then some (.rdh (Request.hashIndex q))
  else if Request.we q = 1#1 ∧ (Request.addr q).extractLsb' 5 2 = 0b01#2 then
    some (.wrh (Request.hashIndex q) (Request.wdata q))
  else if Request.we q = 0#1 ∧ (Request.addr q).extractLsb' 6 1 = 1#1 then some (.rdblk (Request.blockIndex q))
  else if Request.we q = 1#1 ∧ (Request.addr q).extractLsb' 6 1 = 1#1 then
    some (.wrblk (Request.blockIndex q) (Request.wdata q))
  else none

/-- The micro-operation that the selector `usel = (fphase, cphase)` and the two tests `rem = 0` and `fill = 56`
choose; `none` is quiescent (R92). -/
def decodeUop (usel : BitVec 6) (remZero fillIs56 : Bool) : Option Instr :=
  let c := usel.extractLsb' 0 3
  let f := usel.extractLsb' 3 3
  if c = 1#3 then some .sched
  else if c = 2#3 then some .loadv
  else if c = 3#3 then some .round
  else if c = 4#3 then some .feed
  else if c = 0#3 ∧ f = 1#3 ∧ remZero = true then some .pad80
  else if c = 0#3 ∧ f = 2#3 ∧ fillIs56 = false then some .padz
  else if c = 0#3 ∧ f = 2#3 ∧ fillIs56 = true then some .padlen
  else if c = 0#3 ∧ f = 3#3 then some .finish
  else none

/-- How an instruction is presented: a host transaction as its request word, a micro-operation as the selector and the
two tests that choose it (R80, R92). -/
inductive Encoded where
  | req (q : BitVec 40)
  | uop (usel : BitVec 6) (remZero fillIs56 : Bool)
  deriving DecidableEq, Repr

/-- Decoding of either form. -/
def decodeEncoded : Encoded → Option Instr
  | .req q => decode q
  | .uop usel remZero fillIs56 => decodeUop usel remZero fillIs56

/-- The request word `we, addr, wdata`, most significant field first (R80). -/
def requestWord (we : BitVec 1) (addr : BitVec 7) (wdata : Word) : BitVec 40 := we ++ addr ++ wdata

/-- `MemRead(addr, 4)`: a host read; `wdata` is ignored and written as 0 (R14, R81). -/
def readWord (addr : BitVec 7) : BitVec 40 := requestWord 0#1 addr 0#32

/-- `MemWrite(addr, 4, v)`: a host write (R14). -/
def writeWord (addr : BitVec 7) (v : Word) : BitVec 40 := requestWord 1#1 addr v

/-- Byte address of `HASHi`: `0x20 + 4i` (R52). -/
def hashAddr (i : Fin 8) : BitVec 7 := BitVec.ofNat 7 (0x20 + 4 * i.val)

/-- Byte address of `BLKi`: `0x40 + 4i` (R52). -/
def blockAddr (i : Fin 16) : BitVec 7 := BitVec.ofNat 7 (0x40 + 4 * i.val)

/-- The encoder, from the request words of R220 to R236 and the selectors of R92 (a don't-care bit is 0). -/
def encode : Instr → Encoded
  | .start => .req (writeWord 0x00#7 1#32)
  | .abort => .req (writeWord 0x00#7 2#32)
  | .compress => .req (writeWord 0x00#7 3#32)
  | .rdstat => .req (readWord 0x04#7)
  | .rdlenl => .req (readWord 0x08#7)
  | .wrlenl v => .req (writeWord 0x08#7 v)
  | .rdlenh => .req (readWord 0x0C#7)
  | .wrlenh v => .req (writeWord 0x0C#7 v)
  | .wrb b => .req (writeWord 0x10#7 (b.setWidth 32))
  | .rdcntl => .req (readWord 0x14#7)
  | .rdcnth => .req (readWord 0x18#7)
  | .rdh i => .req (readWord (hashAddr i))
  | .wrh i v => .req (writeWord (hashAddr i) v)
  | .rdblk i => .req (readWord (blockAddr i))
  | .wrblk i v => .req (writeWord (blockAddr i) v)
  | .sched => .uop 0b000001#6 false false
  | .loadv => .uop 0b000010#6 false false
  | .round => .uop 0b000011#6 false false
  | .feed => .uop 0b000100#6 false false
  | .pad80 => .uop 0b001000#6 true false
  | .padz => .uop 0b010000#6 false false
  | .padlen => .uop 0b010000#6 false true
  | .finish => .uop 0b011000#6 false false

/-- A row of the opcode table: the bits it fixes, the mask of those bits, and for a micro-operation the extra
condition of its `fields` as a test of (`rem = 0`, `fill = 56`); `none` there is "no condition" (R98, R92). -/
inductive Row where
  | req (pattern mask : BitVec 40)
  | uop (pattern mask : BitVec 6) (remZero fillIs56 : Option Bool)
  deriving DecidableEq, Repr

/-- The row of each instruction, copied from opcode_table.json. -/
def tableRow : Instr → Row
  | .start => .req 0x8000000001#40 0xffffffffff#40
  | .abort => .req 0x8000000002#40 0xffffffffff#40
  | .compress => .req 0x8000000003#40 0xffffffffff#40
  | .rdstat => .req 0x0400000000#40 0xff00000000#40
  | .rdlenl => .req 0x0800000000#40 0xff00000000#40
  | .wrlenl _ => .req 0x8800000000#40 0xff00000000#40
  | .rdlenh => .req 0x0c00000000#40 0xff00000000#40
  | .wrlenh _ => .req 0x8c00000000#40 0xff00000000#40
  | .wrb _ => .req 0x9000000000#40 0xffffffff00#40
  | .rdcntl => .req 0x1400000000#40 0xff00000000#40
  | .rdcnth => .req 0x1800000000#40 0xff00000000#40
  | .rdh _ => .req 0x2000000000#40 0xe300000000#40
  | .wrh _ _ => .req 0xa000000000#40 0xe300000000#40
  | .rdblk _ => .req 0x4000000000#40 0xc300000000#40
  | .wrblk _ _ => .req 0xc000000000#40 0xc300000000#40
  | .sched => .uop 0b000001#6 0b000111#6 none none
  | .loadv => .uop 0b000010#6 0b000111#6 none none
  | .round => .uop 0b000011#6 0b000111#6 none none
  | .feed => .uop 0b000100#6 0b000111#6 none none
  | .pad80 => .uop 0b001000#6 0b111111#6 (some true) none
  | .padz => .uop 0b010000#6 0b111111#6 none (some false)
  | .padlen => .uop 0b010000#6 0b111111#6 none (some true)
  | .finish => .uop 0b011000#6 0b111111#6 none none

/-- A row selects a presented form when the fixed bits agree and the extra condition holds (R98). -/
def Row.selects : Row → Encoded → Bool
  | .req pattern mask, .req q => decide (q &&& mask = pattern)
  | .uop pattern mask r f, .uop usel remZero fillIs56 =>
    decide (usel &&& mask = pattern) && (r == none || r == some remZero) && (f == none || f == some fillIs56)
  | _, _ => false

/-- The instruction the decoder reads from a table row's bits: a request has 40 bits; a micro-operation's selector has
6, given in one byte.  The bits of `usel` do not hold the two tests of R92, which are taken as State.reset has them
(`rem = 0`, `fill ≠ 56`): see log entry 11 for PADZ and PADLEN, whose bits are the same. -/
def decodeTableWord (nbits w : Nat) : Option Instr :=
  if nbits = 40 then (if w < 2 ^ 40 then decode (BitVec.ofNat 40 w) else none)
  else if nbits = 8 ∨ nbits = 6 then (if w < 2 ^ 6 then decodeUop (BitVec.ofNat 6 w) true false else none)
  else none

end Sys2Proof
end

