-- ==== Sys2Proof/Config.lean ====
section
/-! DEFINITION. The free values of the model: the three reset draws of R7.
Each is a constant with no body, so nothing can be proved about its values: a theorem that mentions one holds for
every content the hardware could show (log entry 2). -/

namespace Sys2Proof

/-- `init_B`: byte `j` of the block buffer after the first reset (R7, R41, U7).  Safe: any byte. -/
opaque Config.initB : Nat → Byte

/-- `init_W`: Word `i` of the message schedule after the first reset (R7, R41, U7).  Safe: any Word. -/
opaque Config.initW : Nat → Word

/-- `init_V`: working variable `i` after the first reset (R7, R41, U7).  Safe: any Word. -/
opaque Config.initV : Nat → Word

end Sys2Proof
end

