-- ==== Sys2Proof/Machine/Rom.lean ====
section
/-! DEFINITION. The constant ROM: its normative contents (R136, R139) and their derivation from primes (R130 to R138). -/

namespace Sys2Proof.Machine

/-- `rom.K`, the round constants (R136). -/
def kTable : Vector Word 64 :=
  #v[
    0x428a2f98#32, 0x71374491#32, 0xb5c0fbcf#32, 0xe9b5dba5#32, 0x3956c25b#32, 0x59f111f1#32, 0x923f82a4#32, 0xab1c5ed5#32,
    0xd807aa98#32, 0x12835b01#32, 0x243185be#32, 0x550c7dc3#32, 0x72be5d74#32, 0x80deb1fe#32, 0x9bdc06a7#32, 0xc19bf174#32,
    0xe49b69c1#32, 0xefbe4786#32, 0x0fc19dc6#32, 0x240ca1cc#32, 0x2de92c6f#32, 0x4a7484aa#32, 0x5cb0a9dc#32, 0x76f988da#32,
    0x983e5152#32, 0xa831c66d#32, 0xb00327c8#32, 0xbf597fc7#32, 0xc6e00bf3#32, 0xd5a79147#32, 0x06ca6351#32, 0x14292967#32,
    0x27b70a85#32, 0x2e1b2138#32, 0x4d2c6dfc#32, 0x53380d13#32, 0x650a7354#32, 0x766a0abb#32, 0x81c2c92e#32, 0x92722c85#32,
    0xa2bfe8a1#32, 0xa81a664b#32, 0xc24b8b70#32, 0xc76c51a3#32, 0xd192e819#32, 0xd6990624#32, 0xf40e3585#32, 0x106aa070#32,
    0x19a4c116#32, 0x1e376c08#32, 0x2748774c#32, 0x34b0bcb5#32, 0x391c0cb3#32, 0x4ed8aa4a#32, 0x5b9cca4f#32, 0x682e6ff3#32,
    0x748f82ee#32, 0x78a5636f#32, 0x84c87814#32, 0x8cc70208#32, 0x90befffa#32, 0xa4506ceb#32, 0xbef9a3f7#32, 0xc67178f2#32
  ]

/-- `rom.H0`, the initial state (R139). -/
def h0Table : Vector Word 8 :=
  #v[
    0x6a09e667#32, 0xbb67ae85#32, 0x3c6ef372#32, 0xa54ff53a#32,
    0x510e527f#32, 0x9b05688c#32, 0x1f83d9ab#32, 0x5be0cd19#32
  ]

/-- Trial division: `c` is prime when `c ≥ 2` and no integer in `[2, floor(sqrt c)]` divides it (R130). -/
def primeByTrial (c : Nat) : Bool :=
  decide (2 ≤ c) && (List.range (c + 1)).all fun d => !(decide (2 ≤ d) && decide (d * d ≤ c) && decide (c % d = 0))

/-- Candidates are tried upward from `c` until `n` primes are collected; `fuel` bounds the candidates (R130). -/
def collectPrimes : (fuel n c : Nat) → List Nat
  | 0, _, _ => []
  | _ + 1, 0, _ => []
  | fuel + 1, n + 1, c =>
    if primeByTrial c then c :: collectPrimes fuel n (c + 1) else collectPrimes fuel (n + 1) (c + 1)

/-- `generate_primes(n)`: the first `n` primes, in order (R130).  The engine uses `n = 8` and `n = 64`, and the 64th
prime is 311 (R131), so 312 candidates are enough there. -/
def generatePrimes (n : Nat) : List Nat := collectPrimes 312 n 2

/-- The largest `r < 2^bits` with `r^e ≤ n`, found bit by bit from the top. -/
def rootBelow (e n : Nat) : (bits acc : Nat) → Nat
  | 0, acc => acc
  | b + 1, acc => if (acc + 2 ^ b) ^ e ≤ n then rootBelow e n b (acc + 2 ^ b) else rootBelow e n b acc

/-- `icbrt(n)`: the largest `r` with `r^3 ≤ n`, for `n < 2^120` (R134). -/
def icbrt (n : Nat) : Nat := rootBelow 3 n 40 0

/-- `isqrt(n)`: the largest `r` with `r^2 ≤ n`, for `n < 2^80` (R138). -/
def isqrt (n : Nat) : Nat := rootBelow 2 n 40 0

/-- `derive_k` for the prime `p`: `icbrt(p * 2^96) mod 2^32` (R133, R134). -/
def deriveK (p : Nat) : Word := BitVec.ofNat 32 (icbrt (p * 2 ^ 96))

/-- `derive_h0` for the prime `p`: `isqrt(p * 2^64) mod 2^32` (R137, R138). -/
def deriveH0 (p : Nat) : Word := BitVec.ofNat 32 (isqrt (p * 2 ^ 64))

end Sys2Proof.Machine
end

