-- ==== Sys2Proof/Machine/State.lean ====
section
/-! DEFINITION. The state of one engine instance (R20), its port and inputs held as plain data, the reasons a step can
stop, and the state after reset (R41). -/

namespace Sys2Proof.Machine

/-- The phase of the formatter and orchestration FSM (R31); the codes are `FPhase.code`. -/
inductive FPhase where
  | fIdle | fMsg | fPadz | fLast | fDone | fFault
  deriving DecidableEq, Repr

/-- The compressor's phase (R30); the codes are `CPhase.code`. -/
inductive CPhase where
  | cIdle | cSched | cInit | cRound | cFeed
  deriving DecidableEq, Repr

/-- Response codes (R85); codes 5 to 7 are never produced (R94). -/
inductive RspCode where
  | ok | eInit | eLen | eSeq | eIll
  deriving DecidableEq, Repr

/-- A response word: its code and its read data (R83). -/
structure Response where
  code : RspCode
  rdata : Word
  deriving DecidableEq, Repr

/-- The state: the thirteen elements of R20, then the port (R80, R83, R213) and the reset input (R290). -/
structure State where
  /-- The state register file (R21). -/
  H : Vector Word 8
  /-- The working variables a..h (R22). -/
  V : Vector Word 8
  /-- The message schedule (R23). -/
  W : Vector Word 64
  /-- The block buffer (R24). -/
  B : Vector Byte 64
  /-- The number of valid bytes in `B`, 0..64 (R25). -/
  fill : Fin 65
  /-- The declared message length in bytes (R26). -/
  LEN : DWord
  /-- The message bytes still to be accepted (R27). -/
  rem : DWord
  /-- The compressions completed since the last START or reset (R28). -/
  blkcnt : DWord
  /-- The schedule or round index (R29). -/
  t : BitVec 6
  /-- The compressor's phase (R30). -/
  cphase : CPhase
  /-- The formatter's phase (R31). -/
  fphase : FPhase
  /-- The round-constant ROM (R32). -/
  K : Vector Word 64
  /-- The initial-state ROM (R33). -/
  H0 : Vector Word 8
  /-- The request words the host has still to present, in issue order (R68, log entry 3). -/
  requests : List (BitVec 40)
  /-- The response of the transaction in progress, not yet delivered (R84, R213). -/
  pending : Option Response
  /-- The responses delivered, oldest first (R246, log entry 3). -/
  responses : List Response
  /-- The reset input, one sample per step, head first; empty means not asserted (R290, log entry 4). -/
  resetLine : List Bool
  deriving DecidableEq, Repr

/-- Why the machine stops with a fault. -/
inductive Fault where
  /-- Raised by WRB, PAD80 and PADZ through `State.append` when `fill = 64`: outside the precondition of R158, so the
  spec gives no effect there.  Safe: no reachable state has `fill = 64` with the compressor idle (R42 I1, log entry 7). -/
  | appendFull
  deriving DecidableEq, Repr

/-- Why an instruction has no meaning in a state. -/
inductive Refusal where
  /-- Raised by `exec` for an instruction that is not modelled yet.  Safe.  No arm raises it. -/
  | notModelled (mnemonic : String)
  /-- Raised by the eight micro-operations in a state that does not enable them: the spec performs a micro-operation
  only when it is enabled (R211), and `step` never asks for another.  Safe (log entry 8). -/
  | notEnabled (mnemonic : String)
  deriving DecidableEq, Repr

/-- The machine right after its first reset with the normative ROM (R41, R290): `RomOK` holds, so the phase is
`F_IDLE`.  `B`, `W`, `V` hold the draws `init_B`, `init_W`, `init_V` (log entry 2), and no request is waiting. -/
def State.reset : State where
  H := h0Table
  V := Vector.ofFn fun i => Config.initV i.val
  W := Vector.ofFn fun i => Config.initW i.val
  B := Vector.ofFn fun j => Config.initB j.val
  fill := 0
  LEN := 0#64
  rem := 0#64
  blkcnt := 0#64
  t := 0#6
  cphase := .cIdle
  fphase := .fIdle
  K := kTable
  H0 := h0Table
  requests := []
  pending := none
  responses := []
  resetLine := []

end Sys2Proof.Machine
end

