-- ==== Sys2Proof/Machine/Operands.lean ====
section
/-! DEFINITION. Operand forms: byte order (R57 to R62), halves of 64-bit registers (R61), field codes (R30, R31, R85),
the host register map (R52) and the response word (R83). -/

namespace Sys2Proof.Machine

/-- The Word whose most significant byte is `b0` (R11). -/
def be32 (b0 b1 b2 b3 : Byte) : Word := b0 ++ b1 ++ b2 ++ b3

/-- The four bytes of a Word, most significant first (R11). -/
def bytesBe32 (w : Word) : Vector Byte 4 :=
  #v[w.extractLsb' 24 8, w.extractLsb' 16 8, w.extractLsb' 8 8, w.extractLsb' 0 8]

/-- The eight bytes of a 64-bit number, most significant first (R11). -/
def bytesBe64 (x : DWord) : Vector Byte 8 :=
  #v[x.extractLsb' 56 8, x.extractLsb' 48 8, x.extractLsb' 40 8, x.extractLsb' 32 8,
    x.extractLsb' 24 8, x.extractLsb' 16 8, x.extractLsb' 8 8, x.extractLsb' 0 8]

/-- Word `i` of a block, big-endian (R57). -/
def blockWord (b : Vector Byte 64) (i : Fin 16) : Word :=
  be32 b[4 * i.val] b[4 * i.val + 1] b[4 * i.val + 2] b[4 * i.val + 3]

/-- The block with Word `i` replaced by `v`: `B[4i + j] <- bytes_be32(v)[j]` (R234). -/
def setBlockWord (b : Vector Byte 64) (i : Fin 16) (v : Word) : Vector Byte 64 :=
  (((b.set (4 * i.val) (bytesBe32 v)[0]).set (4 * i.val + 1) (bytesBe32 v)[1]).set (4 * i.val + 2)
    (bytesBe32 v)[2]).set (4 * i.val + 3) (bytesBe32 v)[3]

/-- The block with bytes 56..63 replaced by the length field `x`: `B[56 + j] <- bytes_be64(x)[j]` (R58, R163). -/
def setLengthField (b : Vector Byte 64) (x : DWord) : Vector Byte 64 :=
  (((((((b.set 56 (bytesBe64 x)[0]).set 57 (bytesBe64 x)[1]).set 58 (bytesBe64 x)[2]).set 59 (bytesBe64 x)[3]).set 60
    (bytesBe64 x)[4]).set 61 (bytesBe64 x)[5]).set 62 (bytesBe64 x)[6]).set 63 (bytesBe64 x)[7]

/-- The bit length `L`, that is `LEN[60:0]` followed by three zero bits (R124). -/
def bitLength (len : DWord) : DWord := len.extractLsb' 0 61 ++ 0#3

/-- The low half of a 64-bit register (R61). -/
def lowHalf (x : DWord) : Word := x.extractLsb' 0 32

/-- The high half of a 64-bit register (R61). -/
def highHalf (x : DWord) : Word := x.extractLsb' 32 32

/-- The 64-bit number made of a high and a low half (R89). -/
def joinHalves (hi lo : Word) : DWord := hi ++ lo

/-- The code of a formatter phase (R31). -/
def FPhase.code : FPhase → BitVec 3
  | .fIdle => 0#3
  | .fMsg => 1#3
  | .fPadz => 2#3
  | .fLast => 3#3
  | .fDone => 4#3
  | .fFault => 7#3

/-- The code of a compressor phase (R30). -/
def CPhase.code : CPhase → BitVec 3
  | .cIdle => 0#3
  | .cSched => 1#3
  | .cInit => 2#3
  | .cRound => 3#3
  | .cFeed => 4#3

/-- The code of a response (R85). -/
def RspCode.code : RspCode → BitVec 3
  | .ok => 0#3
  | .eInit => 1#3
  | .eLen => 2#3
  | .eSeq => 3#3
  | .eIll => 4#3

/-- The 35-bit response word: code, then read data (R83). -/
def Response.word (r : Response) : BitVec 35 := r.code.code ++ r.rdata

/-- The phase with a given code, if there is one (R31). -/
def FPhase.ofCode (c : BitVec 3) : Option FPhase :=
  if c = 0#3 then some .fIdle
  else if c = 1#3 then some .fMsg
  else if c = 2#3 then some .fPadz
  else if c = 3#3 then some .fLast
  else if c = 4#3 then some .fDone
  else if c = 7#3 then some .fFault
  else none

/-- The compressor phase with a given code, if there is one (R30). -/
def CPhase.ofCode (c : BitVec 3) : Option CPhase :=
  if c = 0#3 then some .cIdle
  else if c = 1#3 then some .cSched
  else if c = 2#3 then some .cInit
  else if c = 3#3 then some .cRound
  else if c = 4#3 then some .cFeed
  else none

/-- `STATUS`: 29 zero bits and `fphase` (R34, R86). -/
def State.status (s : State) : Word := 0#29 ++ s.fphase.code

/-- What a read of the host register at a byte address would show, `none` where no register can be read: the register
map of R52, written apart from the transactions that read it. -/
def State.hostReg (s : State) (addr : BitVec 7) : Option Word :=
  if addr = 0x04#7 then some s.status
  else if addr = 0x08#7 then some (lowHalf s.LEN)
  else if addr = 0x0C#7 then some (highHalf s.LEN)
  else if addr = 0x14#7 then some (lowHalf s.blkcnt)
  else if addr = 0x18#7 then some (highHalf s.blkcnt)
  else if addr.extractLsb' 0 2 = 0#2 ∧ addr.extractLsb' 5 2 = 0b01#2 then
    some (s.H.get (addr.extractLsb' 2 3).toFin)
  else if addr.extractLsb' 0 2 = 0#2 ∧ addr.extractLsb' 6 1 = 1#1 then
    some (blockWord s.B (addr.extractLsb' 2 4).toFin)
  else none

end Sys2Proof.Machine
end

