-- ==== Sys2Proof/Machine/Flags.lean ====
section
/-! DEFINITION. The engine stores no flags (R37): the conditions its sequencer and its port test, each a function of
the state, and the access table by phase (R53). -/

namespace Sys2Proof.Machine

/-- `rem = 0` (R37). -/
def State.remIsZero (s : State) : Bool := decide (s.rem = 0#64)

/-- `fill = 56` (R37). -/
def State.fillIs56 (s : State) : Bool := decide (s.fill.val = 56)

/-- `t = 63` (R37). -/
def State.tIsLast (s : State) : Bool := decide (s.t = 63#6)

/-- `LEN >= 2^61`, that is `LEN[63:61] ≠ 0` (R37, R263). -/
def State.lenTooLong (s : State) : Bool := decide (s.LEN.extractLsb' 61 3 ≠ 0#3)

/-- `RomOK`: all 72 Words of the ROM equal the normative tables (R141). -/
def State.romOK (s : State) : Bool := decide (s.K = kTable) && decide (s.H0 = h0Table)

/-- No micro-operation is enabled (R210). -/
def State.quiescent (s : State) : Bool :=
  decide (s.cphase = .cIdle) &&
    (decide (s.fphase = .fIdle) || decide (s.fphase = .fDone) || decide (s.fphase = .fFault)
      || (decide (s.fphase = .fMsg) && decide (s.rem ≠ 0#64)))

/-- The selector `usel`: `fphase`, then `cphase` (R92). -/
def State.usel (s : State) : BitVec 6 := s.fphase.code ++ s.cphase.code

/-- The micro-operation the selector and the two tests choose, if any (R92, R211). -/
def State.selected (s : State) : Option Instr := decodeUop s.usel s.remIsZero s.fillIs56

/-- The two idle phases of R53. -/
def FPhase.isIdle : FPhase → Bool
  | .fIdle | .fDone => true
  | .fMsg | .fPadz | .fLast | .fFault => false

/-- Phases in which a run may be in progress or not, but the instance works: `F_IDLE`, `F_MSG`, `F_DONE` (R53). -/
def FPhase.isWorking : FPhase → Bool
  | .fIdle | .fMsg | .fDone => true
  | .fPadz | .fLast | .fFault => false

/-- The access table of R53: whether a phase seen by the port allows a transaction.  `F_PADZ` and `F_LAST` are never
seen there (R210), and no micro-operation is a transaction. -/
def allowed (i : Instr) (p : FPhase) : Bool :=
  match i with
  | .start => p.isIdle
  | .abort => p.isWorking
  | .compress => p.isIdle
  | .rdstat => true
  | .rdlenl => p.isWorking
  | .wrlenl _ => p.isIdle
  | .rdlenh => p.isWorking
  | .wrlenh _ => p.isIdle
  | .wrb _ => decide (p = .fMsg)
  | .rdcntl => p.isWorking
  | .rdcnth => p.isWorking
  | .rdh _ => p.isIdle
  | .wrh _ _ => p.isIdle
  | .rdblk _ => p.isIdle
  | .wrblk _ _ => p.isIdle
  | .sched => false
  | .loadv => false
  | .round => false
  | .feed => false
  | .pad80 => false
  | .padz => false
  | .padlen => false
  | .finish => false

end Sys2Proof.Machine
end

