-- ==== Sys2Proof/Machine/Ops.lean ====
section
/-! DEFINITION. The operations the meanings share: responding and raising (R15), the formatter's helpers (R158, R159),
processing a transaction (R214), performing a micro-operation (R211), the reset event (R290), and choosing what a step
does (R213).  The engine has no exception entry or return (R271, R272): raising an error is a response and no more. -/

namespace Sys2Proof.Machine

/-- Apply `f` to the next state of an outcome and leave a stop as it is. -/
def mapNext (f : State → State) : Host.Outcome State Fault Refusal → Host.Outcome State Fault Refusal
  | .next s => .next (f s)
  | .fault r => .fault r
  | .refused r => .refused r

/-- Answer the transaction in progress; the response is delivered when the engine is quiescent (R84, R215). -/
def State.respond (s : State) (code : RspCode) (rdata : Word) : State := { s with pending := some ⟨code, rdata⟩ }

/-- `raise E`: answer with code `E` and read data 0, and change nothing else (R15, R266). -/
def State.raise (s : State) (code : RspCode) : State := s.respond code 0#32

/-- In a quiescent state the pending response is delivered (R213). -/
def State.deliver (s : State) : State :=
  if s.quiescent then
    match s.pending with
    | some r => { s with responses := s.responses ++ [r], pending := none }
    | none => s
  else s

/-- `call_compress` (R159). -/
def State.callCompress (s : State) : State := { s with cphase := .cSched, t := 0#6 }

/-- `B[fill] <- x ; fill <- fill + 1`, for `fill ≤ 63`: the part of `append` before the test (R158). -/
def State.putByte (s : State) (x : Byte) (h : s.fill.val < 64) : State :=
  { s with B := s.B.set s.fill.val x, fill := ⟨s.fill.val + 1, by omega⟩ }

/-- `append(x)` (R158): store a byte and, when it completes the block, start the compressor in the same step.
Outside its precondition `fill ≤ 63` it stops (log entry 7). -/
def State.append (s : State) (x : Byte) : Host.Outcome State Fault Refusal :=
  if h : s.fill.val < 64 then
    .next (if s.fill.val + 1 = 64 then (s.putByte x h).callCompress else s.putByte x h)
  else .fault .appendFull

/-- `H[i] <- H0[i]` for all `i` (R140). -/
def State.reseed (s : State) : State := { s with H := s.H0 }

/-- The processing of a decoded request (R214): `E_INIT` in the fault phase unless it is RDSTAT, then `E_SEQ` by the
access table, then the effect, which answers itself.  While the engine is busy the request is not yet accepted and
nothing happens (R213, log entry 9). -/
def State.transact (s : State) (i : Instr) (effect : State → Host.Outcome State Fault Refusal) :
    Host.Outcome State Fault Refusal :=
  if s.quiescent = false then .next s
  else if s.fphase = .fFault ∧ i ≠ .rdstat then .next (s.raise .eInit)
  else if allowed i s.fphase = false then .next (s.raise .eSeq)
  else effect s

/-- The answer to a request the decoder calls ILLEGAL: `E_INIT` in the fault phase, else `E_ILL` (R214, R237). -/
def State.refuseIllegal (s : State) : State :=
  if s.fphase = .fFault then s.raise .eInit else s.raise .eIll

/-- A micro-operation is performed only when it is enabled (R211, log entry 8). -/
def State.microOp (s : State) (mnemonic : String) (enabled : Bool)
    (body : State → Host.Outcome State Fault Refusal) : Host.Outcome State Fault Refusal :=
  if enabled = true then body s else .refused (.notEnabled mnemonic)

/-- The reset event (R290, R41): one atomic step.  `B`, `W`, `V` and the ROM are not written; a response not yet
delivered is dropped (R292). -/
def State.resetEvent (s : State) : State :=
  { s with
    H := s.H0
    fill := 0
    LEN := 0#64
    rem := 0#64
    blkcnt := 0#64
    t := 0#6
    cphase := .cIdle
    fphase := if s.romOK then .fIdle else .fFault
    pending := none }

/-- The reset input of this step: whether it is asserted (R290). -/
def State.resetAsserted (s : State) : Bool := s.resetLine.head? == some true

/-- The state with this step's sample of the reset input consumed (log entry 4). -/
def State.tickReset (s : State) : State := { s with resetLine := s.resetLine.tail }

/-- What a step does. -/
inductive Fetched where
  /-- The reset event happens in this state. -/
  | reset (s : State)
  /-- This instruction is performed in this state: the enabled micro-operation, or the accepted request. -/
  | run (i : Instr) (s : State)
  /-- The request accepted is malformed. -/
  | illegal (s : State)
  /-- The engine is quiescent and no request is presented. -/
  | wait (s : State)
  deriving DecidableEq, Repr

/-- The choice of a step: reset if asserted (R290); else the enabled micro-operation (R211); else the next request,
taken from the port and decoded (R213); else waiting (R246, R284). -/
def State.fetch (s : State) : Fetched :=
  if s.resetAsserted then .reset s.tickReset
  else
    match s.selected with
    | some i => .run i s.tickReset
    | none =>
      match s.requests with
      | [] => .wait s.tickReset
      | q :: rest =>
        match decode q with
        | some i => .run i { s.tickReset with requests := rest }
        | none => .illegal { s.tickReset with requests := rest }

/-- The samples of the reset input with the next one not asserted (log entry 12). -/
def State.notAsserted (s : State) : List Bool :=
  if s.resetAsserted then false :: s.resetLine.tail else s.resetLine

/-- A state in which the port accepts a request: `s` itself if it is quiescent, else `s` with the engine idle.  The
reset input is not asserted in the next step (log entry 12). -/
def State.readyForRequest (s : State) : State :=
  { s with
    cphase := .cIdle
    fphase := if s.quiescent then s.fphase else .fIdle
    resetLine := s.notAsserted }

/-- A state in which the selector holds the given 6 bits and the test of R92 that goes with them passes (log entry 12).
A phase code that no phase has leaves the phase as it is: it then stands on don't-care bits. -/
def State.withSelector (s : State) (usel : BitVec 6) : State :=
  { s with
    cphase := (CPhase.ofCode (usel.extractLsb' 0 3)).getD s.cphase
    fphase := (FPhase.ofCode (usel.extractLsb' 3 3)).getD s.fphase
    rem := if usel = 0b001000#6 then 0#64 else s.rem
    fill := if usel = 0b010000#6 ∧ s.fill.val = 56 then 0 else s.fill
    resetLine := s.notAsserted }

/-- `s` with the instruction of a table row placed where the next step takes its instruction from: a request word at
the head of the port, a micro-operation's selector in the phases. -/
def State.placeTableWord (s : State) (nbits w : Nat) : State :=
  if nbits = 40 then { s.readyForRequest with requests := BitVec.ofNat 40 w :: s.requests }
  else s.withSelector (BitVec.ofNat 6 w)

end Sys2Proof.Machine
end

