-- ==== Sys2Proof/Machine/Command.lean ====
section
/-! DEFINITION. The three commands: START, ABORT, COMPRESS (R220 to R222). -/

namespace Sys2Proof.Machine

/-- START (R220): refused with `E_LEN` when `LEN >= 2^61`, and nothing changes then (R263). -/
def execStart (s : State) : Host.Outcome State Fault Refusal :=
  s.transact .start fun s =>
    if s.lenTooLong then .next (s.raise .eLen)
    else .next (State.respond { s.reseed with rem := s.LEN, fill := 0, blkcnt := 0#64, fphase := .fMsg } .ok 0#32)

/-- ABORT (R221). -/
def execAbort (s : State) : Host.Outcome State Fault Refusal :=
  s.transact .abort fun s =>
    .next (State.respond { s.reseed with rem := 0#64, fill := 0, fphase := .fIdle } .ok 0#32)

/-- COMPRESS (R222). -/
def execCompress (s : State) : Host.Outcome State Fault Refusal :=
  s.transact .compress fun s =>
    .next ((State.callCompress { s with fphase := .fIdle, fill := 64 }).respond .ok 0#32)

end Sys2Proof.Machine
end

