-- ==== Sys2Proof/Machine/Datapath.lean ====
section
/-! DEFINITION. The combinational operations of the 32-bit datapath (R110 to R122) and the round they form (R187).
`x +32 y` is `+` on Words, `∧`, `⊕` and `¬` are `&&&`, `^^^` and `~~~` (R111, R115, R116).  No operation writes a flag
or raises an error (R123). -/

namespace Sys2Proof.Machine

/-- Right rotate by `n`, `1 ≤ n ≤ 31` (R113). -/
def rotr (x : Word) (n : Nat) : Word := (x >>> n) ||| (x <<< (32 - n))

/-- Logical right shift by `n`, zero-filled (R114). -/
def shr (x : Word) (n : Nat) : Word := x >>> n

/-- R117. -/
def ch (x y z : Word) : Word := (x &&& y) ^^^ (~~~x &&& z)

/-- R118. -/
def maj (x y z : Word) : Word := (x &&& y) ^^^ (x &&& z) ^^^ (y &&& z)

/-- `Σ0` (R119). -/
def bigSigma0 (x : Word) : Word := rotr x 2 ^^^ rotr x 13 ^^^ rotr x 22

/-- `Σ1` (R120). -/
def bigSigma1 (x : Word) : Word := rotr x 6 ^^^ rotr x 11 ^^^ rotr x 25

/-- `σ0` (R121). -/
def smallSigma0 (x : Word) : Word := rotr x 7 ^^^ rotr x 18 ^^^ shr x 3

/-- `σ1` (R122). -/
def smallSigma1 (x : Word) : Word := rotr x 17 ^^^ rotr x 19 ^^^ shr x 10

/-- The expansion formula of Stage A, applied to `W[t-2]`, `W[t-7]`, `W[t-15]`, `W[t-16]` (R180, R185). -/
def expandWord (w2 w7 w15 w16 : Word) : Word := smallSigma1 w2 + w7 + smallSigma0 w15 + w16

/-- `T1` of a round with constant `k` and schedule Word `w` (R187, R35). -/
def roundT1 (v : Vector Word 8) (k w : Word) : Word := v[7] + bigSigma1 v[4] + ch v[4] v[5] v[6] + k + w

/-- `T2` of a round (R187, R35). -/
def roundT2 (v : Vector Word 8) : Word := bigSigma0 v[0] + maj v[0] v[1] v[2]

/-- The simultaneous assignment of one round (R187). -/
def roundWords (v : Vector Word 8) (k w : Word) : Vector Word 8 :=
  #v[roundT1 v k w + roundT2 v, v[0], v[1], v[2], v[3] + roundT1 v k w, v[4], v[5], v[6]]

/-- The eight sums of Stage D (R188). -/
def feedWords (h v : Vector Word 8) : Vector Word 8 :=
  #v[h[0] + v[0], h[1] + v[1], h[2] + v[2], h[3] + v[3], h[4] + v[4], h[5] + v[5], h[6] + v[6], h[7] + v[7]]

end Sys2Proof.Machine
end

