-- ==== Sys2Proof/Machine/Compressor.lean ====
section
/-! DEFINITION. The four compressor micro-operations (R184 to R188). -/

namespace Sys2Proof.Machine

/-- The schedule Word of index `t`: parsed from the block for `t < 16`, else expanded from `W[t-2]`, `W[t-7]`,
`W[t-15]`, `W[t-16]` (R185). -/
def schedWord (b : Vector Byte 64) (w : Vector Word 64) (t : BitVec 6) : Word :=
  have ht : t.toNat < 64 := t.isLt
  if h : t.toNat < 16 then blockWord b ⟨t.toNat, h⟩
  else expandWord w[t.toNat - 2] w[t.toNat - 7] w[t.toNat - 15] w[t.toNat - 16]

/-- `t <- t + 1`, or at `t = 63` `t <- 0` and the next phase (R185, R187). -/
def State.advance (s : State) (next : CPhase) : State :=
  if s.tIsLast then { s with t := 0#6, cphase := next } else { s with t := s.t + 1#6 }

/-- SCHED (R185). -/
def execSched (s : State) : Host.Outcome State Fault Refusal :=
  s.microOp "SCHED" (decide (s.cphase = .cSched)) fun s =>
    .next (State.advance { s with W := s.W.set s.t.toNat (schedWord s.B s.W s.t) s.t.isLt } .cInit)

/-- LOADV (R186). -/
def execLoadv (s : State) : Host.Outcome State Fault Refusal :=
  s.microOp "LOADV" (decide (s.cphase = .cInit)) fun s => .next { s with V := s.H, cphase := .cRound }

/-- ROUND (R187). -/
def execRound (s : State) : Host.Outcome State Fault Refusal :=
  s.microOp "ROUND" (decide (s.cphase = .cRound)) fun s =>
    .next (State.advance { s with V := roundWords s.V (s.K.get s.t.toFin) (s.W.get s.t.toFin) } .cFeed)

/-- FEED (R188). -/
def execFeed (s : State) : Host.Outcome State Fault Refusal :=
  s.microOp "FEED" (decide (s.cphase = .cFeed)) fun s =>
    .next { s with H := feedWords s.H s.V, blkcnt := s.blkcnt + 1#64, fill := 0, cphase := .cIdle }

end Sys2Proof.Machine
end

