-- ==== Sys2Proof/Machine/Formatter.lean ====
section
/-! DEFINITION. The four formatter micro-operations (R160 to R164). -/

namespace Sys2Proof.Machine

/-- PAD80 (R161): enabled with the compressor idle, in `F_MSG`, when the last message byte has been accepted. -/
def execPad80 (s : State) : Host.Outcome State Fault Refusal :=
  s.microOp "PAD80" (decide (s.cphase = .cIdle ∧ s.fphase = .fMsg ∧ s.rem = 0#64)) fun s =>
    mapNext (fun s' => { s' with fphase := .fPadz }) (s.append 0x80#8)

/-- PADZ (R162): enabled with the compressor idle, in `F_PADZ`, while `fill ≠ 56`. -/
def execPadz (s : State) : Host.Outcome State Fault Refusal :=
  s.microOp "PADZ" (decide (s.cphase = .cIdle ∧ s.fphase = .fPadz ∧ s.fill.val ≠ 56)) fun s => s.append 0x00#8

/-- PADLEN (R163): enabled with the compressor idle, in `F_PADZ`, when `fill = 56`. -/
def execPadlen (s : State) : Host.Outcome State Fault Refusal :=
  s.microOp "PADLEN" (decide (s.cphase = .cIdle ∧ s.fphase = .fPadz ∧ s.fill.val = 56)) fun s =>
    .next (State.callCompress
      { s with B := setLengthField s.B (bitLength s.LEN), fill := 64, fphase := .fLast })

/-- FINISH (R164): enabled with the compressor idle, in `F_LAST`. -/
def execFinish (s : State) : Host.Outcome State Fault Refusal :=
  s.microOp "FINISH" (decide (s.cphase = .cIdle ∧ s.fphase = .fLast)) fun s => .next { s with fphase := .fDone }

end Sys2Proof.Machine
end

