-- ==== Sys2Proof/Machine/Reads.lean ====
section
/-! DEFINITION. The seven read transactions.  No read has a side effect (R65). -/

namespace Sys2Proof.Machine

/-- RDSTAT (R223): accepted in every phase. -/
def execRdstat (s : State) : Host.Outcome State Fault Refusal :=
  s.transact .rdstat fun s => .next (s.respond .ok s.status)

/-- RDLENL (R227). -/
def execRdlenl (s : State) : Host.Outcome State Fault Refusal :=
  s.transact .rdlenl fun s => .next (s.respond .ok (lowHalf s.LEN))

/-- RDLENH (R228). -/
def execRdlenh (s : State) : Host.Outcome State Fault Refusal :=
  s.transact .rdlenh fun s => .next (s.respond .ok (highHalf s.LEN))

/-- RDCNTL (R235). -/
def execRdcntl (s : State) : Host.Outcome State Fault Refusal :=
  s.transact .rdcntl fun s => .next (s.respond .ok (lowHalf s.blkcnt))

/-- RDCNTH (R236). -/
def execRdcnth (s : State) : Host.Outcome State Fault Refusal :=
  s.transact .rdcnth fun s => .next (s.respond .ok (highHalf s.blkcnt))

/-- RDH (R231). -/
def execRdh (i : Fin 8) (s : State) : Host.Outcome State Fault Refusal :=
  s.transact (.rdh i) fun s => .next (s.respond .ok (s.H.get i))

/-- RDBLK (R233). -/
def execRdblk (i : Fin 16) (s : State) : Host.Outcome State Fault Refusal :=
  s.transact (.rdblk i) fun s => .next (s.respond .ok (blockWord s.B i))

end Sys2Proof.Machine
end

