-- ==== Sys2Proof/Machine/Writes.lean ====
section
/-! DEFINITION. The five write transactions other than commands. -/

namespace Sys2Proof.Machine

/-- WRLENL (R229): the high half is unchanged. -/
def execWrlenl (v : Word) (s : State) : Host.Outcome State Fault Refusal :=
  s.transact (.wrlenl v) fun s =>
    .next (State.respond { s with LEN := joinHalves (highHalf s.LEN) v } .ok 0#32)

/-- WRLENH (R230): the low half is unchanged, and no value is refused. -/
def execWrlenh (v : Word) (s : State) : Host.Outcome State Fault Refusal :=
  s.transact (.wrlenh v) fun s =>
    .next (State.respond { s with LEN := joinHalves v (lowHalf s.LEN) } .ok 0#32)

/-- WRB (R225): the next message byte; the compressor starts when it completes the block. -/
def execWrb (b : Byte) (s : State) : Host.Outcome State Fault Refusal :=
  s.transact (.wrb b) fun s =>
    mapNext (fun s' => s'.respond .ok 0#32) (State.append { s with rem := s.rem - 1#64 } b)

/-- WRH (R232): the phase is unchanged. -/
def execWrh (i : Fin 8) (v : Word) (s : State) : Host.Outcome State Fault Refusal :=
  s.transact (.wrh i v) fun s => .next (State.respond { s with H := s.H.set i.val v } .ok 0#32)

/-- WRBLK (R234): four bytes of the block buffer, big-endian; `fill` is unchanged. -/
def execWrblk (i : Fin 16) (v : Word) (s : State) : Host.Outcome State Fault Refusal :=
  s.transact (.wrblk i v) fun s => .next (State.respond { s with B := setBlockWord s.B i v } .ok 0#32)

end Sys2Proof.Machine
end

