-- ==== Sys2Proof/Machine/Dispatch.lean ====
section
/-! DEFINITION. One arm per instruction, each a direct call of its meaning. -/

namespace Sys2Proof.Machine

def exec (i : Instr) (s : State) : Host.Outcome State Fault Refusal :=
  match i with
  | .start => Sys2Proof.Machine.execStart s
  | .abort => Sys2Proof.Machine.execAbort s
  | .compress => Sys2Proof.Machine.execCompress s
  | .rdstat => Sys2Proof.Machine.execRdstat s
  | .rdlenl => Sys2Proof.Machine.execRdlenl s
  | .wrlenl v => Sys2Proof.Machine.execWrlenl v s
  | .rdlenh => Sys2Proof.Machine.execRdlenh s
  | .wrlenh v => Sys2Proof.Machine.execWrlenh v s
  | .wrb b => Sys2Proof.Machine.execWrb b s
  | .rdcntl => Sys2Proof.Machine.execRdcntl s
  | .rdcnth => Sys2Proof.Machine.execRdcnth s
  | .rdh k => Sys2Proof.Machine.execRdh k s
  | .wrh k v => Sys2Proof.Machine.execWrh k v s
  | .rdblk k => Sys2Proof.Machine.execRdblk k s
  | .wrblk k v => Sys2Proof.Machine.execWrblk k v s
  | .sched => Sys2Proof.Machine.execSched s
  | .loadv => Sys2Proof.Machine.execLoadv s
  | .round => Sys2Proof.Machine.execRound s
  | .feed => Sys2Proof.Machine.execFeed s
  | .pad80 => Sys2Proof.Machine.execPad80 s
  | .padz => Sys2Proof.Machine.execPadz s
  | .padlen => Sys2Proof.Machine.execPadlen s
  | .finish => Sys2Proof.Machine.execFinish s

end Sys2Proof.Machine
end

