-- ==== Sys2Proof/Machine/Step.lean ====
section
/-! DEFINITION. One step of the engine and its host port. -/

namespace Sys2Proof.Machine

/-- One step: the reset event, or one instruction (a micro-operation or an accepted request) followed by the delivery
of its response if the engine is then quiescent, or the refusal of a malformed request, or waiting (R211, R213, R290). -/
def step (s : State) : Host.Outcome State Fault Refusal :=
  match s.fetch with
  | .reset s' => .next s'.resetEvent
  | .run i s' => mapNext State.deliver (exec i s')
  | .illegal s' => .next s'.refuseIllegal.deliver
  | .wait s' => .next s'

/-- `s` with a table row's instruction placed where `step` takes its next instruction from. -/
def State.withFetchWord (s : State) (nbits w : Nat) : State := s.placeTableWord nbits w

end Sys2Proof.Machine
end

