-- ==== Sys2Proof/Machine/Digest.lean ====
section
/-! DEFINITION. The pure functions the engine computes: padding and parsing (R150 to R152), compression (R180), the
digest (R240, R241).  They are written from those rules alone and share with the engine only the Word operations, the
round and the byte order. -/

namespace Sys2Proof.Machine

/-- `Z = (55 - n) mod 64`, the number of zero bytes (R151): the least `Z` with `(n + 1 + Z) mod 64 = 56`. -/
def zeroBytes (n : Nat) : Nat := (119 - n % 64) % 64

/-- `pad(m)` (R150).  The length field holds the low 64 bits of `8 * len(m)`; the spec defines `pad` for
`len(m) < 2^61`, where that is exact (log entry 15). -/
def pad (m : List Byte) : List Byte :=
  m ++ [0x80#8] ++ List.replicate (zeroBytes m.length) 0#8 ++ (bytesBe64 (BitVec.ofNat 64 (8 * m.length))).toList

/-- `N(n)`, the number of blocks (R152). -/
def blockCount (n : Nat) : Nat := (n + 8) / 64 + 1

/-- Block `j` of a byte sequence: its bytes `64j` to `64j + 63` (R152). -/
def blockAt (p : List Byte) (j : Nat) : Vector Byte 64 := Vector.ofFn fun i => p.getD (64 * j + i.val) 0#8

/-- `blocks(m)` (R152). -/
def blocks (m : List Byte) : List (Vector Byte 64) := (List.range (blockCount m.length)).map (blockAt (pad m))

/-- `W[t]` from the earlier `W[0..t-1]` of the same block (R180 Stage A). -/
def nextScheduleWord (b : Vector Byte 64) (ws : List Word) : Word :=
  if h : ws.length < 16 then blockWord b ⟨ws.length, h⟩
  else expandWord (ws.getD (ws.length - 2) 0#32) (ws.getD (ws.length - 7) 0#32) (ws.getD (ws.length - 15) 0#32)
    (ws.getD (ws.length - 16) 0#32)

/-- `W[0..t-1]` of a block (R180 Stage A). -/
def schedule (b : Vector Byte 64) : (t : Nat) → List Word
  | 0 => []
  | t + 1 => schedule b t ++ [nextScheduleWord b (schedule b t)]

/-- The working variables after rounds `0..t-1` from `s` (R180 Stages B and C). -/
def workingVars (k : Vector Word 64) (ws : List Word) (s : Vector Word 8) : (t : Nat) → Vector Word 8
  | 0 => s
  | t + 1 => roundWords (workingVars k ws s t) (k.toList.getD t 0#32) (ws.getD t 0#32)

/-- `compress(s, b)` with round constants `k` (R180). -/
def compress (k : Vector Word 64) (s : Vector Word 8) (b : Vector Byte 64) : Vector Word 8 :=
  feedWords s (workingVars k (schedule b 64) s 64)

/-- The final state of a digest: the blocks folded in order from `h0` (R240, R73). -/
def hashState (k : Vector Word 64) (h0 : Vector Word 8) (m : List Byte) : Vector Word 8 :=
  (blocks m).foldl (compress k) h0

/-- `Digest(s)`: the 8 Words serialized big-endian (R241, R59). -/
def digestBytes (s : Vector Word 8) : List Byte := s.toList.flatMap fun w => (bytesBe32 w).toList

/-- `digest(m)` with the normative constants (R240). -/
def digest (m : List Byte) : List Byte := digestBytes (hashState kTable h0Table m)

end Sys2Proof.Machine
end

