-- ==== Sys2Proof/Machine/Pseudo.lean ====
section
/-! DEFINITION. Host programs: the mnemonics, the printed line (R96) and the seven pseudo-instructions (R97). -/

namespace Sys2Proof.Machine

/-- The mnemonic of an instruction, as the opcode table spells it. -/
def mnemonic : Instr → String
  | .start => "START"
  | .abort => "ABORT"
  | .compress => "COMPRESS"
  | .rdstat => "RDSTAT"
  | .rdlenl => "RDLENL"
  | .wrlenl _ => "WRLENL"
  | .rdlenh => "RDLENH"
  | .wrlenh _ => "WRLENH"
  | .wrb _ => "WRB"
  | .rdcntl => "RDCNTL"
  | .rdcnth => "RDCNTH"
  | .rdh _ => "RDH"
  | .wrh _ _ => "WRH"
  | .rdblk _ => "RDBLK"
  | .wrblk _ _ => "WRBLK"
  | .sched => "SCHED"
  | .loadv => "LOADV"
  | .round => "ROUND"
  | .feed => "FEED"
  | .pad80 => "PAD80"
  | .padz => "PADZ"
  | .padlen => "PADLEN"
  | .finish => "FINISH"

/-- The operands of an instruction, as numbers, in the order of R90. -/
def operands : Instr → List Nat
  | .wrlenl v => [v.toNat]
  | .wrlenh v => [v.toNat]
  | .wrb b => [b.toNat]
  | .rdh i => [i.val]
  | .wrh i v => [i.val, v.toNat]
  | .rdblk i => [i.val]
  | .wrblk i v => [i.val, v.toNat]
  | .start | .abort | .compress | .rdstat | .rdlenl | .rdlenh | .rdcntl | .rdcnth => []
  | .sched | .loadv | .round | .feed | .pad80 | .padz | .padlen | .finish => []

/-- A program line: the mnemonic, then the operands in decimal, separated by commas (R96). -/
def programLine (i : Instr) : String :=
  match operands i with
  | [] => mnemonic i
  | ns => mnemonic i ++ " " ++ String.intercalate ", " (ns.map Nat.repr)

/-- `SETLEN n`, `n < 2^64` (R97). -/
def setLen (n : Nat) : List Instr := [.wrlenl (BitVec.ofNat 32 n), .wrlenh (BitVec.ofNat 32 (n / 2 ^ 32))]

/-- `WRMSG b0 b1 ...` (R97). -/
def wrMsg (m : List Byte) : List Instr := m.map .wrb

/-- `HASH m` (R97). -/
def hashProgram (m : List Byte) : List Instr := setLen m.length ++ [.start] ++ wrMsg m

/-- `RDDIGEST` (R97). -/
def rdDigest : List Instr := (List.finRange 8).map .rdh

/-- `LDSTATE s0, ..., s7` (R97). -/
def ldState (s : Vector Word 8) : List Instr := (List.finRange 8).map fun i => .wrh i (s.get i)

/-- `LDBLOCK w0, ..., w15` (R97). -/
def ldBlock (w : Vector Word 16) : List Instr := (List.finRange 16).map fun i => .wrblk i (w.get i)

/-- `RDCNT` (R97). -/
def rdCnt : List Instr := [.rdcntl, .rdcnth]

/-- The request word of a host transaction; a micro-operation has none. -/
def requestOf (i : Instr) : Option (BitVec 40) :=
  match encode i with
  | .req q => some q
  | .uop _ _ _ => none

/-- The request words of a program. -/
def requestsOf (p : List Instr) : List (BitVec 40) := p.filterMap requestOf

end Sys2Proof.Machine
end

