-- ==== Sys2Proof/Machine/Run.lean ====
section
/-! DEFINITION. Runs of the engine: micro-steps (R211), `run` (R212), a whole transaction as the host sees it (R213),
and several instances (R74). -/

namespace Sys2Proof.Machine

/-- One micro-step: the enabled micro-operation, or nothing in a quiescent state (R211). -/
def microStep (s : State) : Host.Outcome State Fault Refusal :=
  match s.selected with
  | some i => exec i s
  | none => .next s

/-- Exactly `k` micro-steps. -/
def microSteps : (k : Nat) → State → Host.Outcome State Fault Refusal
  | 0, s => .next s
  | k + 1, s =>
    match microStep s with
    | .next s' => microSteps k s'
    | .fault r => .fault r
    | .refused r => .refused r

/-- `run(s)` (R212): micro-steps until the state is quiescent.  A micro-step of a quiescent state changes nothing, and
326 of them are enough from every reachable state. -/
def runToQuiescence (s : State) : Host.Outcome State Fault Refusal := microSteps 326 s

/-- `exec(s, q)` of R214, for a request word.  R214 defines it for quiescent states only; on a busy engine a malformed
word, like a well-formed one, is not yet accepted and the state stays as it is (log entry 9). -/
def execRequest (q : BitVec 40) (s : State) : Host.Outcome State Fault Refusal :=
  match decode q with
  | some i => exec i s
  | none => .next (if s.quiescent then s.refuseIllegal else s)

/-- The transition the host sees, `s --q/rsp--> run(s')` (R213): the request is processed, the engine runs to
quiescence, and the response is delivered.  It is a transition between quiescent states; from a busy state it leaves the
request out, and only the response in progress is delivered (log entry 9). -/
def transaction (q : BitVec 40) (s : State) : Host.Outcome State Fault Refusal :=
  match execRequest q s with
  | .next s' => mapNext State.deliver (runToQuiescence s')
  | .fault r => .fault r
  | .refused r => .refused r

/-- A list of transactions, in order (R246). -/
def transactions : List (BitVec 40) → State → Host.Outcome State Fault Refusal
  | [], s => .next s
  | q :: qs, s =>
    match transaction q s with
    | .next s' => transactions qs s'
    | .fault r => .fault r
    | .refused r => .refused r

/-- Exactly `k` steps of the whole machine. -/
def steps : (k : Nat) → State → Host.Outcome State Fault Refusal
  | 0, s => .next s
  | k + 1, s =>
    match step s with
    | .next s' => steps k s'
    | .fault r => .fault r
    | .refused r => .refused r

/-- One step of instance `n` of several engines: they share no mutable state (R74, R282). -/
def stepInstance (es : List State) (n : Nat) : Host.Outcome (List State) Fault Refusal :=
  match es[n]? with
  | none => .next es
  | some s =>
    match step s with
    | .next s' => .next (es.set n s')
    | .fault r => .fault r
    | .refused r => .refused r

end Sys2Proof.Machine
end

