-- ==== Sys2Proof/Safety.lean ====
section
/-! DEFINITION. What holds in every reachable state (R42, R84) and how much work a busy engine has left (R212). -/

namespace Sys2Proof.Machine

/-- R42 I1: the buffer is full exactly while a compression runs. -/
abbrev State.I1 (s : State) : Prop :=
  (s.cphase ≠ .cIdle → s.fill.val = 64) ∧ (s.cphase = .cIdle → s.fill.val ≤ 63)

/-- R42 I2: outside a digest run nothing is buffered and nothing is awaited. -/
abbrev State.I2 (s : State) : Prop :=
  s.cphase = .cIdle → s.fphase = .fIdle ∨ s.fphase = .fDone ∨ s.fphase = .fFault → s.fill.val = 0 ∧ s.rem = 0#64

/-- R42 I3: the bytes accepted so far, `LEN - rem`, are those of the completed blocks and those in the buffer. -/
abbrev State.I3 (s : State) : Prop :=
  s.fphase = .fMsg → s.rem.toNat ≤ s.LEN.toNat ∧ s.LEN.toNat < 2 ^ 61 ∧
    (s.cphase = .cIdle → s.LEN.toNat - s.rem.toNat = 64 * s.blkcnt.toNat + s.fill.val)

/-- R42 I4: `t` counts only while the schedule is built or rounds are run. -/
abbrev State.I4 (s : State) : Prop :=
  s.cphase = .cIdle ∨ s.cphase = .cInit ∨ s.cphase = .cFeed → s.t = 0#6

/-- R42 I5: padding starts after the last message byte. -/
abbrev State.I5 (s : State) : Prop := s.fphase = .fPadz ∨ s.fphase = .fLast → s.rem = 0#64

/-- R42 I6: the fault phase is idle, and holds exactly when the ROM is bad. -/
abbrev State.I6 (s : State) : Prop :=
  (s.fphase = .fFault → s.cphase = .cIdle) ∧ (s.fphase = .fFault ↔ s.romOK = false)

/-- What R42 needs beside its own clauses to be kept by every step: its clauses I2 and I3 also while a compression
runs, an empty buffer after the last block, and `F_DONE` only with the compressor idle. -/
abbrev State.Linked (s : State) : Prop :=
  (s.fphase = .fIdle ∨ s.fphase = .fDone ∨ s.fphase = .fFault → s.rem = 0#64) ∧
  (s.fphase = .fMsg → s.LEN.toNat - s.rem.toNat = 64 * s.blkcnt.toNat + s.fill.val) ∧
  (s.fphase = .fLast → s.cphase = .cIdle → s.fill.val = 0) ∧
  (s.fphase = .fDone → s.cphase = .cIdle)

/-- R42 (I7 holds by the types of `fphase` and `cphase`) with what keeps it inductive. -/
structure State.CoreInv (s : State) : Prop where
  i1 : s.I1
  i2 : s.I2
  i3 : s.I3
  i4 : s.I4
  i5 : s.I5
  i6 : s.I6
  linked : s.Linked

/-- The invariant of reachable states: R42, and a response is pending exactly while the engine is busy (R84, R213). -/
structure State.Inv (s : State) : Prop where
  core : s.CoreInv
  port : s.pending = none ↔ s.quiescent = true

/-- The engine is in an idle phase (R53). -/
abbrev State.inIdlePhase (s : State) : Prop := s.cphase = .cIdle ∧ (s.fphase = .fIdle ∨ s.fphase = .fDone)

/-- The engine waits for a message byte (R165). -/
abbrev State.awaitsByte (s : State) : Prop := s.cphase = .cIdle ∧ s.fphase = .fMsg ∧ s.rem ≠ 0#64

/-- The engine is in the fault phase (R142). -/
abbrev State.inFault (s : State) : Prop := s.cphase = .cIdle ∧ s.fphase = .fFault

/-- The state after a transaction that answered and changed nothing else. -/
abbrev State.answered (s : State) (code : RspCode) (rdata : Word) : State := { s with pending := some ⟨code, rdata⟩ }

/-- The 15 host transactions (R90). -/
def isTransaction : Instr → Bool
  | .start | .abort | .compress | .rdstat | .rdlenl | .wrlenl _ | .rdlenh | .wrlenh _ | .wrb _ => true
  | .rdcntl | .rdcnth | .rdh _ | .wrh _ _ | .rdblk _ | .wrblk _ _ => true
  | .sched | .loadv | .round | .feed | .pad80 | .padz | .padlen | .finish => false

/-- When each micro-operation is enabled, from its own rule (R161 to R164, R185 to R188); no transaction is. -/
def enabledIn (i : Instr) (s : State) : Prop :=
  match i with
  | .sched => s.cphase = .cSched
  | .loadv => s.cphase = .cInit
  | .round => s.cphase = .cRound
  | .feed => s.cphase = .cFeed
  | .pad80 => s.cphase = .cIdle ∧ s.fphase = .fMsg ∧ s.rem = 0#64
  | .padz => s.cphase = .cIdle ∧ s.fphase = .fPadz ∧ s.fill.val ≠ 56
  | .padlen => s.cphase = .cIdle ∧ s.fphase = .fPadz ∧ s.fill.val = 56
  | .finish => s.cphase = .cIdle ∧ s.fphase = .fLast
  | .start | .abort | .compress | .rdstat | .rdlenl | .wrlenl _ | .rdlenh | .wrlenh _ | .wrb _ => False
  | .rdcntl | .rdcnth | .rdh _ | .wrh _ _ | .rdblk _ | .wrblk _ _ => False

/-- The address a read transaction carries (R52), `none` for any other instruction. -/
def readAddress : Instr → Option (BitVec 7)
  | .rdstat => some 0x04#7
  | .rdlenl => some 0x08#7
  | .rdlenh => some 0x0C#7
  | .rdcntl => some 0x14#7
  | .rdcnth => some 0x18#7
  | .rdh i => some (hashAddr i)
  | .rdblk i => some (blockAddr i)
  | .start | .abort | .compress | .wrlenl _ | .wrlenh _ | .wrb _ | .wrh _ _ | .wrblk _ _ => none
  | .sched | .loadv | .round | .feed | .pad80 | .padz | .padlen | .finish => none

/-- The transactions that are refused during a digest run (R264). -/
def refusedInRun : Instr → Bool
  | .start | .compress | .wrlenl _ | .wrlenh _ | .rdh _ | .wrh _ _ | .rdblk _ | .wrblk _ _ => true
  | .abort | .rdstat | .rdlenl | .rdlenh | .wrb _ | .rdcntl | .rdcnth => false
  | .sched | .loadv | .round | .feed | .pad80 | .padz | .padlen | .finish => false

/-- The transaction that is refused outside a digest run (R264). -/
def refusedOutsideRun : Instr → Bool
  | .wrb _ => true
  | .start | .abort | .compress | .rdstat | .rdlenl | .wrlenl _ | .rdlenh | .wrlenh _ | .rdcntl | .rdcnth => false
  | .rdh _ | .wrh _ _ | .rdblk _ | .wrblk _ _ => false
  | .sched | .loadv | .round | .feed | .pad80 | .padz | .padlen | .finish => false

/-- The response code of a well-formed transaction in a quiescent state, from the causes of R262, R264, R263 in the
order of R267. -/
def expectedCode (i : Instr) (s : State) : RspCode :=
  if s.fphase = .fFault ∧ i ≠ .rdstat then .eInit
  else if s.fphase = .fMsg ∧ refusedInRun i = true then .eSeq
  else if (s.fphase = .fIdle ∨ s.fphase = .fDone) ∧ refusedOutsideRun i = true then .eSeq
  else if i = .start ∧ 2 ^ 61 ≤ s.LEN.toNat then .eLen
  else .ok

/-- Two states that agree in all but the working variables and the schedule, and agree there too in what the compressor
has written since it started and will still read: what R22, R23 and R183 say of residues in `V` and `W`. -/
def State.sameButScratch (s s' : State) : Prop :=
  { s with V := s'.V, W := s'.W } = s' ∧
    match s.cphase with
    | .cIdle => True
    | .cSched => ∀ k : Fin 64, k.val < s.t.toNat → s.W.get k = s'.W.get k
    | .cInit => s.W = s'.W
    | .cRound => s.W = s'.W ∧ s.V = s'.V
    | .cFeed => s.V = s'.V

/-- The micro-steps a compression has still to make (R184: 64 + 1 + 64 + 1 in all). -/
def State.compressLeft (s : State) : Nat :=
  match s.cphase with
  | .cIdle => 0
  | .cSched => 130 - s.t.toNat
  | .cInit => 66
  | .cRound => 65 - s.t.toNat
  | .cFeed => 1

/-- The micro-steps from an idle compressor in `F_PADZ` with `fill` bytes buffered to the end of the run: `PADZ` up to
56 (through a compression when the block has to be completed first), PADLEN, a compression, FINISH (R301). -/
def padLeft (fill : Nat) : Nat :=
  if fill ≤ 56 then (56 - fill) + 1 + 130 + 1 else (64 - fill) + 130 + 56 + 1 + 130 + 1

/-- The micro-steps from an idle compressor in `F_MSG` with `rem = 0`: PAD80, which may itself complete the block, then
the padding (R301). -/
def pad80Left (fill : Nat) : Nat := if fill < 63 then 1 + padLeft (fill + 1) else 1 + 130 + padLeft 0

/-- The micro-steps left until the engine is quiescent (R212, R301): those of the compression in progress, after which
the buffer is empty, and those of the formatter. -/
def State.workLeft (s : State) : Nat :=
  let fill := if s.cphase = .cIdle then s.fill.val else 0
  s.compressLeft +
    match s.fphase with
    | .fMsg => if s.rem = 0#64 then pad80Left fill else 0
    | .fPadz => padLeft fill
    | .fLast => 1
    | .fIdle | .fDone | .fFault => 0

/-- The edges of `fphase` that a step other than a reset may take (R249), staying included. -/
def FPhase.edge : FPhase → FPhase → Bool
  | .fIdle, .fIdle | .fIdle, .fMsg => true
  | .fMsg, .fMsg | .fMsg, .fPadz | .fMsg, .fIdle => true
  | .fPadz, .fPadz | .fPadz, .fLast => true
  | .fLast, .fLast | .fLast, .fDone => true
  | .fDone, .fDone | .fDone, .fMsg | .fDone, .fIdle => true
  | .fFault, .fFault => true
  | _, _ => false

/-- The edges of `cphase` that a step other than a reset may take (R249), staying included. -/
def CPhase.edge : CPhase → CPhase → Bool
  | .cIdle, .cIdle | .cIdle, .cSched => true
  | .cSched, .cSched | .cSched, .cInit => true
  | .cInit, .cRound => true
  | .cRound, .cRound | .cRound, .cFeed => true
  | .cFeed, .cIdle => true
  | _, _ => false

end Sys2Proof.Machine
end

