-- ==== Sys2Proof/Certificates/Slice0/Obligations.lean ====
section
/-! DEFINITION. The statements for the provers, from the numbered rules of the spec. -/

open Sys2Proof Sys2Proof.Machine

/-! ## Encoding and decoding -/

/-- Decoding the encoding of an instruction gives it back, for every instruction and every operand: request words for
the 15 transactions (R80, R90), selectors and tests for the 8 micro-operations (R92). -/
def Obligations.DecodeEncodeRoundTrip : Prop :=
  ∀ i : Instr, decodeEncoded (encode i) = some i

/-- A decoded request is the encoding of what it decodes to, bit for bit when it is a write and but for the ignored
write data when it is a read (R81, R90). -/
def Obligations.EncodeDecodeRoundTrip : Prop :=
  ∀ (q : BitVec 40) (i : Instr), decode q = some i →
    (Request.we q = 1#1 ∧ encode i = .req q) ∨
    (Request.we q = 0#1 ∧ encode i = .req (readWord (Request.addr q)))

/-- R81: write data takes no part in decoding a read nor in its result, in any state, and lies outside the mask of every
read row; on a write all 32 bits are significant, that is, no two write words decode to the same instruction. -/
def Obligations.WriteDataIgnoredOnReadsOnly : Prop :=
  (∀ (a : BitVec 7) (d d' : Word), decode (requestWord 0#1 a d) = decode (requestWord 0#1 a d')) ∧
  (∀ (a : BitVec 7) (d d' : Word) (s : State),
    execRequest (requestWord 0#1 a d) s = execRequest (requestWord 0#1 a d') s) ∧
  (∀ (i : Instr) (p m : BitVec 40), tableRow i = .req p m → Request.we p = 0#1 → Request.wdata m = 0#32) ∧
  (∀ (a a' : BitVec 7) (d d' : Word) (i : Instr), decode (requestWord 1#1 a d) = some i →
    decode (requestWord 1#1 a' d') = some i → a = a' ∧ d = d')

/-- The decoder refuses exactly the malformed requests: the decision list of R90 and the six defects of R66 agree on all
2^40 words. -/
def Obligations.IllegalExactlyWhenMalformed : Prop :=
  ∀ q : BitVec 40, decode q = none ↔ Request.wellFormed q = false

/-- The decoder and the opcode table agree: a request word decodes to an instruction of a row exactly when that row
selects it, a selector with its two tests decodes to a micro-operation exactly when that micro-operation's row selects
it, and two rows that select one word are one row (R91, R92, R98). -/
def Obligations.DecoderAgreesWithOpcodeTable : Prop :=
  (∀ (q : BitVec 40) (i : Instr), decode q = some i → isTransaction i = true ∧ (tableRow i).selects (.req q) = true) ∧
  (∀ (q : BitVec 40) (i : Instr), (tableRow i).selects (.req q) = true →
    ∃ j, decode q = some j ∧ tableRow j = tableRow i) ∧
  (∀ (usel : BitVec 6) (remZero fillIs56 : Bool) (i : Instr),
    decodeUop usel remZero fillIs56 = some i ↔ (tableRow i).selects (.uop usel remZero fillIs56) = true) ∧
  (∀ (e : Encoded) (i j : Instr), (tableRow i).selects e = true → (tableRow j).selects e = true →
    tableRow i = tableRow j)

/-- Words written out in the spec decode to what they stand for (R80, R90, 95_test_vectors section 8). -/
def Obligations.PrintedWordsDecode : Prop :=
  decode 0x9000000061#40 = some (.wrb 0x61#8) ∧ decode 0x8000000001#40 = some .start ∧
  decode 0x3c00000000#40 = some (.rdh 7) ∧ decode 0xa4bb67ae85#40 = some (.wrh 1 0xbb67ae85#32) ∧
  decode 0x7c00000000#40 = some (.rdblk 15) ∧ decode 0xc061626380#40 = some (.wrblk 0 0x61626380#32) ∧
  decode 0x8c1fffffff#40 = some (.wrlenh 0x1fffffff#32) ∧ decodeUop 0b010000#6 true true = some .padlen

/-- The response word: the code above the read data, with the code numbers of R85 (R83). -/
def Obligations.ResponseWordFields : Prop :=
  (∀ r : Response, r.word.extractLsb' 32 3 = r.code.code ∧ r.word.extractLsb' 0 32 = r.rdata) ∧
  RspCode.ok.code = 0#3 ∧ RspCode.eInit.code = 1#3 ∧ RspCode.eLen.code = 2#3 ∧ RspCode.eSeq.code = 3#3 ∧
  RspCode.eIll.code = 4#3

/-! ## What a step does -/

/-- The selector chooses a micro-operation exactly when that micro-operation's own rule enables it, and none exactly in
the quiescent states; so in every other state exactly one is enabled (R92, R210, R211). -/
def Obligations.SelectorChoosesTheEnabledMicroOp : Prop :=
  (∀ (s : State) (i : Instr), s.selected = some i ↔ enabledIn i s) ∧
  (∀ s : State, s.quiescent = true ↔ s.selected = none)

/-- When a micro-operation is enabled and reset is not asserted, a step is `exec` of it, on the state with this step's
sample of the reset input consumed, followed by the delivery of the response if the engine is then quiescent (R211). -/
def Obligations.StepRunsTheEnabledMicroOp : Prop :=
  ∀ (s : State) (i : Instr), s.resetAsserted = false → enabledIn i s →
    step s = mapNext State.deliver (exec i { s with resetLine := s.resetLine.tail })

/-- In a quiescent state a step takes the next request off the port and is `exec` of what it decodes to, followed by
the delivery of the response if the engine is then quiescent (R213, R214). -/
def Obligations.StepRunsTheDecodedRequest : Prop :=
  ∀ (s : State) (q : BitVec 40) (rest : List (BitVec 40)) (i : Instr), s.resetAsserted = false →
    s.quiescent = true → s.requests = q :: rest → decode q = some i →
    step s = mapNext State.deliver (exec i { s with requests := rest, resetLine := s.resetLine.tail })

/-- Delivery hands over exactly the pending response, and only in a quiescent state (R84, R213). -/
def Obligations.DeliveryHandsOverThePendingResponse : Prop :=
  ∀ s : State,
    (s.quiescent = false → s.deliver = s) ∧
    (∀ r, s.quiescent = true → s.pending = some r →
      s.deliver = { s with responses := s.responses ++ [r], pending := none }) ∧
    (s.pending = none → s.deliver = s)

/-- A malformed request has no effect in any phase and is answered `(E_ILL, 0)`, or `(E_INIT, 0)` in `F_FAULT`; the words
of the examples are malformed (R237, R214).  What the equation says beside that is the model's form: the request and the
response move on the port's lists within one step (log entry 3), and one sample of the reset input is consumed
(log entry 4). -/
def Obligations.MalformedRequestIsRefused : Prop :=
  (∀ (s : State) (q : BitVec 40) (rest : List (BitVec 40)), s.resetAsserted = false → s.quiescent = true →
    s.requests = q :: rest → Request.wellFormed q = false →
    step s = .next
      { s with
        requests := rest
        pending := none
        responses := s.responses ++ [⟨if s.fphase = .fFault then .eInit else .eIll, 0#32⟩]
        resetLine := s.resetLine.tail }) ∧
  ([0x0000000000#40, 0x8400000000#40, 0x8000000000#40, 0x8000000101#40, 0x9000000100#40, 0x1C00000000#40,
    0x9C00000000#40, 0x2100000000#40].all fun q => !Request.wellFormed q) = true

/-- A quiescent engine with no request presented waits: only the sample of the reset input is consumed (R246, R284;
log entry 10). -/
def Obligations.QuiescentEngineWaits : Prop :=
  ∀ s : State, s.resetAsserted = false → s.quiescent = true → s.requests = [] →
    step s = .next { s with resetLine := s.resetLine.tail }

/-- A busy engine takes no request, and its response is not delivered before the engine is quiescent (R84, R213); that
it is delivered in the very step that reaches quiescence is the model's choice (log entry 3). -/
def Obligations.BusyEngineTakesNoRequest : Prop :=
  ∀ s t : State, s.resetAsserted = false → s.quiescent = false → step s = .next t →
    t.requests = s.requests ∧
    (t.quiescent = false → t.responses = s.responses ∧ t.pending = s.pending) ∧
    (t.quiescent = true → t.responses = s.responses ++ s.pending.toList ∧ t.pending = none)

/-- Every accepted request gets exactly one response: the requests still to present, the response in progress and the
responses delivered keep their total number in every step without a reset (R84).  The lists that are counted are the
model's form of the port (log entry 3). -/
def Obligations.OneResponsePerRequest : Prop :=
  ∀ s t : State, s.Inv → s.resetAsserted = false → step s = .next t →
    t.requests.length + t.pending.toList.length + t.responses.length =
      s.requests.length + s.pending.toList.length + s.responses.length

/-! ## The commands -/

/-- START: in an idle phase with `LEN < 2^61` a digest run begins and nothing but the registers named changes; with
`LEN >= 2^61` the answer is `E_LEN`, during a run `E_SEQ`, in the fault phase `E_INIT`, and nothing changes
(R220, R263). -/
def Obligations.StartBeginsADigestRun : Prop :=
  ∀ s : State,
    (s.inIdlePhase → s.LEN.toNat < 2 ^ 61 →
      exec .start s = .next
        { s with
          H := s.H0
          rem := s.LEN
          fill := 0
          blkcnt := 0#64
          fphase := .fMsg
          pending := some ⟨.ok, 0#32⟩ }) ∧
    (s.inIdlePhase → 2 ^ 61 ≤ s.LEN.toNat → exec .start s = .next (s.answered .eLen 0#32)) ∧
    (s.awaitsByte → exec .start s = .next (s.answered .eSeq 0#32)) ∧
    (s.inFault → exec .start s = .next (s.answered .eInit 0#32))

/-- ABORT: in an idle phase and between message bytes the run is abandoned and nothing but the registers named changes;
in the fault phase the answer is `E_INIT` (R221). -/
def Obligations.AbortAbandonsTheRun : Prop :=
  ∀ s : State,
    (s.inIdlePhase ∨ s.awaitsByte →
      exec .abort s = .next
        { s with H := s.H0, rem := 0#64, fill := 0, fphase := .fIdle, pending := some ⟨.ok, 0#32⟩ }) ∧
    (s.inFault → exec .abort s = .next (s.answered .eInit 0#32))

/-- COMPRESS: in an idle phase the compressor is started on the block buffer and nothing but the registers named
changes; during a run the answer is `E_SEQ`, in the fault phase `E_INIT` (R222). -/
def Obligations.CompressStartsTheCompressor : Prop :=
  ∀ s : State,
    (s.inIdlePhase →
      exec .compress s = .next
        { s with fphase := .fIdle, fill := 64, cphase := .cSched, t := 0#6, pending := some ⟨.ok, 0#32⟩ }) ∧
    (s.awaitsByte → exec .compress s = .next (s.answered .eSeq 0#32)) ∧
    (s.inFault → exec .compress s = .next (s.answered .eInit 0#32))

/-! ## The reads -/

/-- R223: RDSTAT is the read of address 0x04 with its data ignored; it is accepted in every phase the port sees, changes
nothing, never raises an error, and answers the code of `fphase`, which is 0, 1, 4 or 7. -/
def Obligations.RdstatAnswersThePhase : Prop :=
  (∀ s : State, s.quiescent = true →
    exec .rdstat s = .next (s.answered .ok (s.fphase.code.setWidth 32)) ∧
    (s.fphase.code = 0#3 ∨ s.fphase.code = 1#3 ∨ s.fphase.code = 4#3 ∨ s.fphase.code = 7#3)) ∧
  encode .rdstat = .req 0x0400000000#40 ∧
  (∀ d : Word, decode (requestWord 0#1 0x04#7 d) = some .rdstat)

/-- RDLENL, RDLENH, RDCNTL, RDCNTH: in an idle phase and during a run they change nothing and answer the low or high
32 bits of `LEN` or `blkcnt`; in the fault phase the answer is `E_INIT` (R227, R228, R235, R236). -/
def Obligations.LengthAndCountReads : Prop :=
  ∀ s : State,
    (s.inIdlePhase ∨ s.awaitsByte →
      exec .rdlenl s = .next (s.answered .ok (BitVec.ofNat 32 s.LEN.toNat)) ∧
      exec .rdlenh s = .next (s.answered .ok (BitVec.ofNat 32 (s.LEN.toNat / 2 ^ 32))) ∧
      exec .rdcntl s = .next (s.answered .ok (BitVec.ofNat 32 s.blkcnt.toNat)) ∧
      exec .rdcnth s = .next (s.answered .ok (BitVec.ofNat 32 (s.blkcnt.toNat / 2 ^ 32)))) ∧
    (s.inFault →
      exec .rdlenl s = .next (s.answered .eInit 0#32) ∧ exec .rdlenh s = .next (s.answered .eInit 0#32) ∧
      exec .rdcntl s = .next (s.answered .eInit 0#32) ∧ exec .rdcnth s = .next (s.answered .eInit 0#32))

/-- RDH and RDBLK: in an idle phase they change nothing and answer `H[i]`, or the four bytes `B[4i..4i+3]` read
big-endian; during a run the answer is `E_SEQ`, in the fault phase `E_INIT` (R231, R233, R57). -/
def Obligations.HashAndBlockReads : Prop :=
  ∀ (s : State) (i : Fin 8) (k : Fin 16),
    (s.inIdlePhase →
      exec (.rdh i) s = .next (s.answered .ok (s.H.get i)) ∧
      exec (.rdblk k) s = .next (s.answered .ok (BitVec.ofNat 32
        ((s.B.get (Fin.ofNat 64 (4 * k.val))).toNat * 2 ^ 24 + (s.B.get (Fin.ofNat 64 (4 * k.val + 1))).toNat * 2 ^ 16
          + (s.B.get (Fin.ofNat 64 (4 * k.val + 2))).toNat * 2 ^ 8
          + (s.B.get (Fin.ofNat 64 (4 * k.val + 3))).toNat)))) ∧
    (s.awaitsByte →
      exec (.rdh i) s = .next (s.answered .eSeq 0#32) ∧ exec (.rdblk k) s = .next (s.answered .eSeq 0#32)) ∧
    (s.inFault →
      exec (.rdh i) s = .next (s.answered .eInit 0#32) ∧ exec (.rdblk k) s = .next (s.answered .eInit 0#32))

/-- Each of the seven reads, in an idle phase, answers what the register map of R52 shows at the address its request
word carries, and changes nothing (R52, R65). -/
def Obligations.ReadsFollowTheRegisterMap : Prop :=
  ∀ (s : State) (i : Instr) (a : BitVec 7), s.inIdlePhase → readAddress i = some a →
    encode i = .req (readWord a) ∧ ∃ v, s.hostReg a = some v ∧ exec i s = .next (s.answered .ok v)

/-! ## The writes -/

/-- WRLENL and WRLENH: in an idle phase they replace the low or the high 32 bits of `LEN`, keep the other half, and
change nothing else, whatever the value; during a run the answer is `E_SEQ`, in the fault phase `E_INIT`
(R229, R230). -/
def Obligations.LengthWritesReplaceOneHalf : Prop :=
  ∀ (s : State) (v : Word),
    (s.inIdlePhase →
      exec (.wrlenl v) s = .next
        { s with
          LEN := BitVec.ofNat 64 (s.LEN.toNat / 2 ^ 32 * 2 ^ 32 + v.toNat)
          pending := some ⟨.ok, 0#32⟩ } ∧
      exec (.wrlenh v) s = .next
        { s with
          LEN := BitVec.ofNat 64 (v.toNat * 2 ^ 32 + s.LEN.toNat % 2 ^ 32)
          pending := some ⟨.ok, 0#32⟩ }) ∧
    (s.awaitsByte →
      exec (.wrlenl v) s = .next (s.answered .eSeq 0#32) ∧ exec (.wrlenh v) s = .next (s.answered .eSeq 0#32)) ∧
    (s.inFault →
      exec (.wrlenl v) s = .next (s.answered .eInit 0#32) ∧ exec (.wrlenh v) s = .next (s.answered .eInit 0#32))

/-- WRH: in an idle phase `H[i]` takes the value, every other Word of `H` and everything else is unchanged; during a
run the answer is `E_SEQ`, in the fault phase `E_INIT` (R232). -/
def Obligations.WrhWritesOneWord : Prop :=
  ∀ (s : State) (i : Fin 8) (v : Word),
    (s.inIdlePhase →
      ∃ t, exec (.wrh i v) s = .next t ∧ t = { s with H := t.H, pending := some ⟨.ok, 0#32⟩ } ∧
        ∀ j : Fin 8, t.H.get j = if j = i then v else s.H.get j) ∧
    (s.awaitsByte → exec (.wrh i v) s = .next (s.answered .eSeq 0#32)) ∧
    (s.inFault → exec (.wrh i v) s = .next (s.answered .eInit 0#32))

/-- WRBLK: in an idle phase the four bytes at `4i` take the value's bytes, most significant first; every other byte of
the block buffer and everything else is unchanged; during a run the answer is `E_SEQ`, in the fault phase `E_INIT`
(R234). -/
def Obligations.WrblkWritesFourBytes : Prop :=
  ∀ (s : State) (i : Fin 16) (v : Word),
    (s.inIdlePhase →
      ∃ t, exec (.wrblk i v) s = .next t ∧ t = { s with B := t.B, pending := some ⟨.ok, 0#32⟩ } ∧
        ∀ j : Fin 64, t.B.get j =
          if j.val / 4 = i.val then BitVec.ofNat 8 (v.toNat / 256 ^ (3 - j.val % 4)) else s.B.get j) ∧
    (s.awaitsByte → exec (.wrblk i v) s = .next (s.answered .eSeq 0#32)) ∧
    (s.inFault → exec (.wrblk i v) s = .next (s.answered .eInit 0#32))

/-- WRB: while a byte is awaited the byte is stored at index `fill`, `fill` and `rem` count it, the compressor starts
when it completes the block, and nothing else changes; in an idle phase the answer is `E_SEQ`, in the fault phase
`E_INIT` (R225, R158).  A full buffer, which no reachable state has here (R42 I1), stops by name (log entry 7). -/
def Obligations.WrbAbsorbsOneByte : Prop :=
  ∀ (s : State) (b : Byte),
    (s.awaitsByte → s.fill.val ≤ 63 →
      ∃ t, exec (.wrb b) s = .next t ∧
        t = { s with
          B := t.B
          rem := s.rem - 1#64
          fill := Fin.ofNat 65 (s.fill.val + 1)
          cphase := if s.fill.val = 63 then .cSched else s.cphase
          t := if s.fill.val = 63 then 0#6 else s.t
          pending := some ⟨.ok, 0#32⟩ } ∧
        ∀ j : Fin 64, t.B.get j = if j.val = s.fill.val then b else s.B.get j) ∧
    (s.awaitsByte → s.fill.val = 64 → exec (.wrb b) s = .fault .appendFull) ∧
    (s.inIdlePhase → exec (.wrb b) s = .next (s.answered .eSeq 0#32)) ∧
    (s.inFault → exec (.wrb b) s = .next (s.answered .eInit 0#32))

/-! ## Errors -/

/-- R266: a transaction answered with a nonzero code, a malformed one among them, has read data 0, changes nothing else,
and leaves the engine quiescent, so that no micro-operation runs. -/
def Obligations.ErrorsChangeNothing : Prop :=
  (∀ (i : Instr) (s t : State) (r : Response), isTransaction i = true → s.quiescent = true → exec i s = .next t →
    t.pending = some r → r.code ≠ .ok → t = s.answered r.code 0#32 ∧ t.quiescent = true) ∧
  (∀ s : State, s.quiescent = true → ∃ c : RspCode, c ≠ .ok ∧ s.refuseIllegal = s.answered c 0#32 ∧
    s.refuseIllegal.quiescent = true)

/-- Every transaction that the port accepts is answered, with exactly the code that the causes of R262, R263 and R264
give in the order of R267. -/
def Obligations.ResponseCodesByPriority : Prop :=
  ∀ (i : Instr) (s : State), isTransaction i = true → s.quiescent = true → s.fill.val ≤ 63 →
    ∃ t r, exec i s = .next t ∧ t.pending = some r ∧ r.code = expectedCode i s

/-- In the fault phase every request but RDSTAT, well-formed or not, is answered `(E_INIT, 0)`, RDSTAT answers 7, and no
element of the engine changes (R142, R262, R223).  What the equation says beside that is the model's form: the request
and the response move on the port's lists within one step (log entry 3), and one sample of the reset input is consumed
(log entry 4). -/
def Obligations.FaultPhaseAnswersOnlyStatus : Prop :=
  ∀ (s : State) (q : BitVec 40) (rest : List (BitVec 40)), s.inFault → s.resetAsserted = false →
    s.requests = q :: rest →
    step s = .next
      { s with
        requests := rest
        pending := none
        responses := s.responses ++ [if decode q = some .rdstat then ⟨.ok, 7#32⟩ else ⟨.eInit, 0#32⟩]
        resetLine := s.resetLine.tail }

/-- During a digest run no answer depends on `H`, `B`, `V` or `W`: two waiting states that differ only there answer
every transaction alike (R39, R226). -/
def Obligations.NoIntermediateStateIsExposed : Prop :=
  ∀ (i : Instr) (s s' : State), isTransaction i = true → s.awaitsByte → s.fill.val ≤ 63 →
    s' = { s with H := s'.H, B := s'.B, V := s'.V, W := s'.W } →
    ∃ t t', exec i s = .next t ∧ exec i s' = .next t' ∧ t.pending = t'.pending

/-! ## The formatter -/

/-- PAD80: when enabled the byte 0x80 is stored at index `fill`, the phase becomes `F_PADZ`, the compressor starts when
it completes the block, and nothing else changes (R161, R158).  A full buffer stops by name (log entry 7). -/
def Obligations.Pad80AppendsTheOneBit : Prop :=
  ∀ s : State, s.cphase = .cIdle → s.fphase = .fMsg → s.rem = 0#64 →
    (s.fill.val ≤ 63 →
      ∃ t, exec .pad80 s = .next t ∧
        t = { s with
          B := t.B
          fill := Fin.ofNat 65 (s.fill.val + 1)
          fphase := .fPadz
          cphase := if s.fill.val = 63 then .cSched else s.cphase
          t := if s.fill.val = 63 then 0#6 else s.t } ∧
        ∀ j : Fin 64, t.B.get j = if j.val = s.fill.val then 0x80#8 else s.B.get j) ∧
    (s.fill.val = 64 → exec .pad80 s = .fault .appendFull)

/-- PADZ: when enabled a zero byte is stored at index `fill`, the compressor starts when it completes the block, and
nothing else changes (R162, R158).  A full buffer stops by name (log entry 7). -/
def Obligations.PadzAppendsAZeroByte : Prop :=
  ∀ s : State, s.cphase = .cIdle → s.fphase = .fPadz → s.fill.val ≠ 56 →
    (s.fill.val ≤ 63 →
      ∃ t, exec .padz s = .next t ∧
        t = { s with
          B := t.B
          fill := Fin.ofNat 65 (s.fill.val + 1)
          cphase := if s.fill.val = 63 then .cSched else s.cphase
          t := if s.fill.val = 63 then 0#6 else s.t } ∧
        ∀ j : Fin 64, t.B.get j = if j.val = s.fill.val then 0#8 else s.B.get j) ∧
    (s.fill.val = 64 → exec .padz s = .fault .appendFull)

/-- PADLEN: when enabled bytes 56..63 take the bit length `8 * LEN` (modulo 2^64), most significant byte first, the
block is handed to the compressor, the phase becomes `F_LAST`, and nothing else changes (R163). -/
def Obligations.PadlenWritesTheBitLength : Prop :=
  ∀ s : State, s.cphase = .cIdle → s.fphase = .fPadz → s.fill.val = 56 →
    ∃ t, exec .padlen s = .next t ∧
      t = { s with B := t.B, fill := 64, cphase := .cSched, t := 0#6, fphase := .fLast } ∧
      ∀ j : Fin 64, t.B.get j =
        if 56 ≤ j.val then BitVec.ofNat 8 (8 * s.LEN.toNat / 256 ^ (63 - j.val)) else s.B.get j

/-- FINISH: when enabled the phase becomes `F_DONE`, nothing else changes, and the state is quiescent (R164). -/
def Obligations.FinishEndsTheRun : Prop :=
  ∀ s : State, s.cphase = .cIdle → s.fphase = .fLast →
    exec .finish s = .next { s with fphase := .fDone } ∧ State.quiescent { s with fphase := .fDone } = true

/-- `pad(m)` has the length of `N(n)` whole blocks, `Z` is the least number of zero bytes that leaves room for the
length field, and `N(n)` is one more block than the full ones, or two more when the padding spills (R151, R152, R154). -/
def Obligations.PaddingFillsWholeBlocks : Prop :=
  ∀ m : List Byte,
    (pad m).length = 64 * blockCount m.length ∧
    (m.length + 1 + zeroBytes m.length) % 64 = 56 ∧
    (∀ z, (m.length + 1 + z) % 64 = 56 → zeroBytes m.length ≤ z) ∧
    (m.length % 64 ≤ 55 → blockCount m.length = m.length / 64 + 1) ∧
    (56 ≤ m.length % 64 → blockCount m.length = m.length / 64 + 2)

/-! ## The compressor -/

/-- SCHED: `W[t]` takes Word `t` of the block, big-endian, for `t < 16`, and the expansion of four earlier Words for
`t >= 16`; `t` counts, or at 63 returns to 0 with phase `C_INIT`; every other Word and everything else is unchanged
(R185). -/
def Obligations.SchedWritesOneScheduleWord : Prop :=
  ∀ s : State, s.cphase = .cSched →
    ∃ u, exec .sched s = .next u ∧
      u = { s with
        W := u.W
        t := if s.t = 63#6 then 0#6 else s.t + 1#6
        cphase := if s.t = 63#6 then .cInit else .cSched } ∧
      ∀ k : Fin 64, u.W.get k =
        if k.val = s.t.toNat then
          if k.val < 16 then
            be32 (s.B.get (Fin.ofNat 64 (4 * k.val))) (s.B.get (Fin.ofNat 64 (4 * k.val + 1)))
              (s.B.get (Fin.ofNat 64 (4 * k.val + 2))) (s.B.get (Fin.ofNat 64 (4 * k.val + 3)))
          else
            smallSigma1 (s.W.get (Fin.ofNat 64 (k.val - 2))) + s.W.get (Fin.ofNat 64 (k.val - 7))
              + smallSigma0 (s.W.get (Fin.ofNat 64 (k.val - 15))) + s.W.get (Fin.ofNat 64 (k.val - 16))
        else s.W.get k

/-- R186: LOADV, enabled in `C_INIT`: the working variables take the state register file and the phase becomes `C_ROUND`;
nothing else changes, and `t` is already 0 in every state that meets R42. -/
def Obligations.LoadvCopiesTheState : Prop :=
  ∀ s : State, s.cphase = .cInit →
    exec .loadv s = .next { s with V := s.H, cphase := .cRound } ∧ (s.CoreInv → s.t = 0#6)

/-- ROUND: the eight working variables take the simultaneous assignment of one round with `K[t]` and `W[t]`; `t` counts,
or at 63 returns to 0 with phase `C_FEED`; nothing else changes (R187). -/
def Obligations.RoundMixesOnce : Prop :=
  ∀ (s : State) (a b c d e f g h : Word), s.cphase = .cRound → s.V = #v[a, b, c, d, e, f, g, h] →
    let t1 := h + bigSigma1 e + ch e f g + s.K.get (Fin.ofNat 64 s.t.toNat) + s.W.get (Fin.ofNat 64 s.t.toNat)
    let t2 := bigSigma0 a + maj a b c
    exec .round s = .next
      { s with
        V := #v[t1 + t2, a, b, c, d + t1, e, f, g]
        t := if s.t = 63#6 then 0#6 else s.t + 1#6
        cphase := if s.t = 63#6 then .cFeed else .cRound }

/-- FEED: every Word of `H` takes its sum with the working variable of the same index, `blkcnt` counts modulo 2^64,
the buffer is empty, the compressor idle, and nothing else changes (R188). -/
def Obligations.FeedAddsTheWorkingVariables : Prop :=
  ∀ s : State, s.cphase = .cFeed →
    ∃ t, exec .feed s = .next t ∧
      t = { s with
        H := t.H
        blkcnt := BitVec.ofNat 64 ((s.blkcnt.toNat + 1) % 2 ^ 64)
        fill := 0
        cphase := .cIdle } ∧
      ∀ i : Fin 8, (t.H.get i).toNat = ((s.H.get i).toNat + (s.V.get i).toNat) % 2 ^ 32

/-- Nothing runs out of turn: a transaction presented to a busy engine, or any request word at all, is not accepted and
disturbs nothing (R213), and a micro-operation that is not enabled is refused by name (R211).  As meanings of `exec` and
`execRequest` these are the model's own (log entries 8 and 9). -/
def Obligations.NothingRunsOutOfTurn : Prop :=
  (∀ (i : Instr) (s : State), isTransaction i = true → s.quiescent = false → exec i s = .next s) ∧
  (∀ (q : BitVec 40) (s : State), s.quiescent = false → execRequest q s = .next s) ∧
  (∀ (i : Instr) (s : State), isTransaction i = false → ¬ enabledIn i s →
    exec i s = .refused (.notEnabled (mnemonic i)))

/-- While a compression runs no step but a reset writes `B`, `LEN`, `rem` or `fphase`, and none but FEED writes `H`
(R24, R184). -/
def Obligations.NothingDisturbsACompression : Prop :=
  ∀ s t : State, s.cphase ≠ .cIdle → s.resetAsserted = false → step s = .next t →
    t.B = s.B ∧ t.LEN = s.LEN ∧ t.rem = s.rem ∧ t.fphase = s.fphase ∧ (s.cphase ≠ .cFeed → t.H = s.H)

/-- R189: from `call_compress`, exactly 130 micro-steps compute `compress` on the state and the block, count the block,
empty the buffer and return to `C_IDLE`, with the full schedule in `W` and the working variables after round 63 in `V`;
everything else is unchanged, nothing depends on what `W`, `V` or `t` held before, and after fewer micro-steps the
compressor is still running. -/
def Obligations.CompressionTakes130MicroSteps : Prop :=
  ∀ s : State, ∃ u, microSteps 130 s.callCompress = .next u ∧
    u = { s with
      H := compress s.K s.H s.B
      V := workingVars s.K (schedule s.B 64) s.H 64
      W := u.W
      blkcnt := s.blkcnt + 1#64
      fill := 0
      t := 0#6
      cphase := .cIdle } ∧
    u.W.toList = schedule s.B 64 ∧
    ∀ k, k < 130 → ∃ v, microSteps k s.callCompress = .next v ∧ v.cphase ≠ .cIdle

/-! ## The datapath and the constants -/

/-- Right rotation moves bit `i + n` (modulo 32) to bit `i`; right shift divides by `2^n`; `Ch` picks the second
operand's bit where the first is 1 and the third's where it is 0; `Maj` is the majority of the three bits; bit `i` of
`Σ0`, `Σ1`, `σ0`, `σ1` is the exclusive or of the operand's bits at the amounts their rules give, where a bit shifted in
by `shr` is 0 (R113, R114, R117 to R122). -/
def Obligations.DatapathFunctionsBitByBit : Prop :=
  (∀ (x : Word) (n i : Nat), 1 ≤ n → n ≤ 31 → i < 32 → (rotr x n).getLsbD i = x.getLsbD ((i + n) % 32)) ∧
  (∀ (x : Word) (n : Nat), 1 ≤ n → n ≤ 31 → (shr x n).toNat = x.toNat / 2 ^ n) ∧
  (∀ (x y z : Word) (i : Nat), i < 32 →
    (ch x y z).getLsbD i = (if x.getLsbD i then y.getLsbD i else z.getLsbD i) ∧
    (maj x y z).getLsbD i =
      decide (2 ≤ (x.getLsbD i).toNat + (y.getLsbD i).toNat + (z.getLsbD i).toNat)) ∧
  (∀ (x : Word) (i : Nat), i < 32 →
    (bigSigma0 x).getLsbD i =
      (x.getLsbD ((i + 2) % 32) ^^ x.getLsbD ((i + 13) % 32) ^^ x.getLsbD ((i + 22) % 32)) ∧
    (bigSigma1 x).getLsbD i =
      (x.getLsbD ((i + 6) % 32) ^^ x.getLsbD ((i + 11) % 32) ^^ x.getLsbD ((i + 25) % 32)) ∧
    (smallSigma0 x).getLsbD i =
      (x.getLsbD ((i + 7) % 32) ^^ x.getLsbD ((i + 18) % 32) ^^ (if i < 29 then x.getLsbD (i + 3) else false)) ∧
    (smallSigma1 x).getLsbD i =
      (x.getLsbD ((i + 17) % 32) ^^ x.getLsbD ((i + 19) % 32) ^^ (if i < 22 then x.getLsbD (i + 10) else false)))

/-- The identities of R125, and the sums `T1`, `T2` and `W[t]` of the engine as the unbounded sums of their operands
reduced once modulo 2^32 (R112, with the operands of R187 and R185). -/
def Obligations.DatapathIdentities : Prop :=
  (∀ x y z : Word, ch x y z = z ^^^ (x &&& (y ^^^ z)) ∧ ch x y z = (x &&& y) ||| (~~~x &&& z) ∧
    maj x y z = (x &&& y) ^^^ (z &&& (x ^^^ y)) ∧ maj x y z = (x &&& y) ||| (x &&& z) ||| (y &&& z)) ∧
  (∀ (x y : Word) (n : Nat), 1 ≤ n → n ≤ 31 →
    rotr (rotr x n) (32 - n) = x ∧ rotr (x ^^^ y) n = rotr x n ^^^ rotr y n ∧
    rotr (x &&& y) n = rotr x n &&& rotr y n ∧ rotr (~~~x) n = ~~~(rotr x n) ∧ (shr x n).toNat < 2 ^ (32 - n)) ∧
  (∀ (v : Vector Word 8) (k w : Word), (roundT1 v k w).toNat =
    ((v.get 7).toNat + (bigSigma1 (v.get 4)).toNat + (ch (v.get 4) (v.get 5) (v.get 6)).toNat + k.toNat + w.toNat)
      % 2 ^ 32) ∧
  (∀ v : Vector Word 8, (roundT2 v).toNat =
    ((bigSigma0 (v.get 0)).toNat + (maj (v.get 0) (v.get 1) (v.get 2)).toNat) % 2 ^ 32) ∧
  (∀ w2 w7 w15 w16 : Word, (expandWord w2 w7 w15 w16).toNat =
    ((smallSigma1 w2).toNat + w7.toNat + (smallSigma0 w15).toNat + w16.toNat) % 2 ^ 32)

/-- Every entry of the ROM is derived from its prime as the rules say, by the integer inequalities of R134 and R138:
entry `i` from the `(i+1)`-th of the primes that trial division generates (R130, R132, R136, R139). -/
def Obligations.RomTablesAreDerived : Prop :=
  (∀ i : Fin 64, ∃ p r : Nat, (generatePrimes 64)[i.val]? = some p ∧ r ^ 3 ≤ p * 2 ^ 96 ∧ p * 2 ^ 96 < (r + 1) ^ 3 ∧
    kTable.get i = BitVec.ofNat 32 r) ∧
  (∀ i : Fin 8, ∃ p r : Nat, (generatePrimes 8)[i.val]? = some p ∧ r ^ 2 ≤ p * 2 ^ 64 ∧ p * 2 ^ 64 < (r + 1) ^ 2 ∧
    h0Table.get i = BitVec.ofNat 32 r)

/-! ## Reset -/

/-- When reset is asserted the step is the reset event, whatever the state and whatever is in progress: every element
takes its reset value, the phase tells whether all 72 Words of the ROM are the normative ones, `B`, `W`, `V` and the ROM
are not written, and the response in progress is dropped (R290, R41, R292).  Two clauses of the equation are the
model's and no rule's: requests not yet accepted and responses already delivered stay (log entry 5), and one sample of
the reset input is consumed (log entry 4).  That `B`, `W`, `V` keep their values is R290's and R41's word; log entry 6
says what R292 allows a model beside it. -/
def Obligations.ResetEventFromAnyState : Prop :=
  ∀ (s : State) (rest : List Bool), s.resetLine = true :: rest →
    step s = .next
      { s with
        H := s.H0
        fill := 0
        LEN := 0#64
        rem := 0#64
        blkcnt := 0#64
        t := 0#6
        cphase := .cIdle
        fphase := if s.K = kTable ∧ s.H0 = h0Table then .fIdle else .fFault
        pending := none
        resetLine := rest }

/-- The state after the first reset with the normative ROM (R41); `B`, `W`, `V` hold the free values of log entry 2. -/
def Obligations.ResetStateValues : Prop :=
  State.reset.H = h0Table ∧ State.reset.fill = 0 ∧ State.reset.LEN = 0#64 ∧ State.reset.rem = 0#64 ∧
  State.reset.blkcnt = 0#64 ∧ State.reset.t = 0#6 ∧ State.reset.cphase = .cIdle ∧ State.reset.fphase = .fIdle ∧
  State.reset.K = kTable ∧ State.reset.H0 = h0Table ∧ State.reset.quiescent = true ∧
  (∀ j : Fin 64, State.reset.B.get j = Config.initB j.val) ∧
  (∀ k : Fin 64, State.reset.W.get k = Config.initW k.val) ∧
  (∀ i : Fin 8, State.reset.V.get i = Config.initV i.val)

/-- Every reset, from any state at all, leads to a state that meets the invariant, and so does the first one
(R42, R290). -/
def Obligations.ResetMeetsTheInvariant : Prop := State.reset.Inv ∧ ∀ s : State, s.resetEvent.Inv

/-! ## Invariants and whole-machine rules -/

/-- Every step keeps the invariant: R42 I1 to I6, and a response is pending exactly while the engine is busy. -/
def Obligations.EveryStepKeepsTheInvariant : Prop :=
  ∀ s t : State, s.Inv → step s = .next t → t.Inv

/-- The engine never stops: from every state that meets the invariant a step answers a next state (R123, R181, R268). -/
def Obligations.EveryStepAnswersANextState : Prop :=
  ∀ s : State, s.Inv → ∃ t, step s = .next t

/-- No step writes the ROM (R32, R33). -/
def Obligations.RomIsNeverWritten : Prop :=
  ∀ s t : State, step s = .next t → t.K = s.K ∧ t.H0 = s.H0

/-- The phases move only along the edges of R249 (without a reset). -/
def Obligations.PhasesMoveAlongTheEdges : Prop :=
  ∀ s t : State, s.resetAsserted = false → step s = .next t →
    FPhase.edge s.fphase t.fphase = true ∧ CPhase.edge s.cphase t.cphase = true

/-- Each register is written only by the instructions its rule names (R21 to R31), the two phases with the values and
at the index R30 and R31 give, and no instruction writes the ROM (R32, R33).  That no instruction writes the requests,
the delivered responses or the reset input is the model's own: `step` alone moves them (log entries 3 and 4).  Reset, the one other writer, is no instruction. -/
def Obligations.WritersOfEachRegister : Prop :=
  ∀ (i : Instr) (s t : State), exec i s = .next t →
    (t.H ≠ s.H → i = .start ∨ i = .abort ∨ i = .feed ∨ ∃ k v, i = .wrh k v) ∧
    (t.V ≠ s.V → i = .loadv ∨ i = .round) ∧
    (t.W ≠ s.W → i = .sched) ∧
    (t.B ≠ s.B → i = .pad80 ∨ i = .padz ∨ i = .padlen ∨ (∃ b, i = .wrb b) ∨ ∃ k v, i = .wrblk k v) ∧
    (t.fill ≠ s.fill → i = .start ∨ i = .abort ∨ i = .compress ∨ i = .feed ∨ i = .pad80 ∨ i = .padz ∨ i = .padlen ∨
      ∃ b, i = .wrb b) ∧
    (t.LEN ≠ s.LEN → (∃ v, i = .wrlenl v) ∨ ∃ v, i = .wrlenh v) ∧
    (t.rem ≠ s.rem → i = .start ∨ i = .abort ∨ ∃ b, i = .wrb b) ∧
    (t.blkcnt ≠ s.blkcnt → i = .start ∨ i = .feed) ∧
    (t.t ≠ s.t → i = .compress ∨ i = .pad80 ∨ i = .padz ∨ i = .padlen ∨ i = .sched ∨ i = .round ∨ ∃ b, i = .wrb b) ∧
    (t.cphase ≠ s.cphase →
      ((i = .compress ∨ i = .pad80 ∨ i = .padz ∨ i = .padlen ∨ ∃ b, i = .wrb b) ∧ t.cphase = .cSched) ∨
      (i = .sched ∧ s.t = 63#6 ∧ t.cphase = .cInit) ∨ (i = .loadv ∧ t.cphase = .cRound) ∨
      (i = .round ∧ s.t = 63#6 ∧ t.cphase = .cFeed) ∨ (i = .feed ∧ t.cphase = .cIdle)) ∧
    (t.fphase ≠ s.fphase →
      (i = .start ∧ t.fphase = .fMsg) ∨ ((i = .abort ∨ i = .compress) ∧ t.fphase = .fIdle) ∨
      (i = .pad80 ∧ t.fphase = .fPadz) ∨ (i = .padlen ∧ t.fphase = .fLast) ∨ (i = .finish ∧ t.fphase = .fDone)) ∧
    t.K = s.K ∧ t.H0 = s.H0 ∧ t.requests = s.requests ∧ t.responses = s.responses ∧ t.resetLine = s.resetLine

/-- The work left is none exactly in the quiescent states and never more than 326 micro-steps, and every micro-step of a
busy engine answers a next state, keeps R42 and does exactly one of the micro-steps left (R211, R212, R301). -/
def Obligations.MicroStepsCountDown : Prop :=
  (∀ s : State, (s.workLeft = 0 ↔ s.quiescent = true) ∧ s.workLeft ≤ 326) ∧
  (∀ s : State, s.CoreInv → s.quiescent = false →
    ∃ t, microStep s = .next t ∧ t.CoreInv ∧ t.workLeft + 1 = s.workLeft)

/-- R212: from every state that meets R42, 326 micro-steps (and already `workLeft` of them) reach a quiescent state. -/
def Obligations.RunReachesQuiescence : Prop :=
  ∀ s : State, s.CoreInv →
    ∃ t, runToQuiescence s = .next t ∧ microSteps s.workLeft s = .next t ∧ t.quiescent = true ∧ t.CoreInv

/-- The micro-steps a transaction causes (R301): COMPRESS 130; START none, or 188 for the empty message; WRB none, 130
when it completes a block, or, when it is the last byte of a message of `n` bytes, those of the padding and the one or
two compressions, and of one more compression when the byte also completed a data block; every other transaction none, and every refused
request none, a malformed one among them. -/
def Obligations.MicroStepsOfATransaction : Prop :=
  (∀ s t : State, s.inIdlePhase → exec .compress s = .next t → t.workLeft = 130) ∧
  (∀ s t : State, s.inIdlePhase → s.LEN.toNat < 2 ^ 61 → exec .start s = .next t →
    t.workLeft = if s.LEN = 0#64 then 188 else 0) ∧
  (∀ (s t : State) (b : Byte), s.CoreInv → s.awaitsByte → exec (.wrb b) s = .next t →
    (s.rem ≠ 1#64 → t.workLeft = if s.fill.val = 63 then 130 else 0) ∧
    (s.rem = 1#64 → t.workLeft =
      (if s.LEN.toNat % 64 = 0 then 130 else 0) + 1 + zeroBytes s.LEN.toNat + 1
        + 130 * (if s.LEN.toNat % 64 ≤ 55 then 1 else 2) + 1)) ∧
  (∀ (i : Instr) (s t : State), isTransaction i = true → i ≠ .start → i ≠ .compress → (∀ b, i ≠ .wrb b) →
    s.quiescent = true → exec i s = .next t → t.workLeft = 0) ∧
  (∀ (i : Instr) (s t : State) (r : Response), isTransaction i = true → s.quiescent = true → exec i s = .next t →
    t.pending = some r → r.code ≠ .ok → t.workLeft = 0) ∧
  (∀ s : State, s.quiescent = true → s.refuseIllegal.workLeft = 0)

/-- No rule's result depends on residues in the working variables or the schedule: states that differ only there step
to states that differ only there (R22, R23, R41, R183). -/
def Obligations.ScratchRegistersNeverMatter : Prop :=
  ∀ s s' t : State, s.sameButScratch s' → step s = .next t →
    ∃ t', step s' = .next t' ∧ t.sameButScratch t'

/-! ## The machine the host sees -/

/-- R213: from a quiescent state the steps of the machine carry out exactly the transition the host sees for the next
request, in at most 327 steps.  The lists of the port and the step of the delivery are the model's (log entry 3). -/
def Obligations.StepsCarryOutTheTransaction : Prop :=
  ∀ (s : State) (q : BitVec 40) (rest : List (BitVec 40)), s.Inv → s.quiescent = true → s.resetLine = [] →
    s.requests = q :: rest →
    ∃ k t, 1 ≤ k ∧ k ≤ 327 ∧ transaction q { s with requests := rest } = .next t ∧ steps k s = .next t

/-- Raw mode: in an idle phase the program that loads a state and a block and compresses ends with the compression of
that state and block in `H`, the block unchanged in `B`, in `F_IDLE`, every response `(OK, 0)` (R222, R232, R234,
R245). -/
def Obligations.RawModeComputesCompress : Prop :=
  ∀ (s : State) (h : Vector Word 8) (b : Vector Byte 64) (w : Vector Word 16), s.inIdlePhase →
    (∀ i : Fin 16, blockWord b i = w.get i) →
    ∃ t, transactions (requestsOf (ldState h ++ ldBlock w ++ [.compress])) s = .next t ∧
      t.H = compress s.K h b ∧ t.B = b ∧ t.fphase = .fIdle ∧ t.cphase = .cIdle ∧ t.blkcnt = s.blkcnt + 1#64 ∧
      t.responses = s.responses ++ List.replicate 25 ⟨.ok, 0#32⟩

/-- R242: with the normative ROM, from every quiescent state in an idle phase and for every message shorter than 2^61
bytes, the program `HASH m` gets `(OK, 0)` for every transaction and ends in `F_DONE` with the digest of `m` in `H`, the
number of blocks in `blkcnt`, the length in `LEN`, and the last block in `B`; `RDDIGEST` then answers the Words of the
digest. -/
def Obligations.HashProgramComputesTheDigest : Prop :=
  ∀ (s : State) (m : List Byte), s.romOK = true → s.inIdlePhase → m.length < 2 ^ 61 →
    ∃ t u, transactions (requestsOf (hashProgram m)) s = .next t ∧
      t.quiescent = true ∧ t.fphase = .fDone ∧ digestBytes t.H = digest m ∧
      t.blkcnt.toNat = blockCount m.length ∧ t.LEN.toNat = m.length ∧ t.rem = 0#64 ∧ t.fill = 0 ∧
      t.B = blockAt (pad m) (blockCount m.length - 1) ∧
      t.responses = s.responses ++ List.replicate (m.length + 3) ⟨.ok, 0#32⟩ ∧
      transactions (requestsOf rdDigest) t = .next u ∧
      u.responses = t.responses ++ (hashState kTable h0Table m).toList.map fun w => ⟨.ok, w⟩
end

