-- ==== Sys2Proof/Laws/Encoding.lean ====
section
/-! SUPPORT. The fields of a request word: what the decoder reads from a word built from fields, and back. -/

namespace Sys2Proof

/-- Bitwise AND of two request words, field by field. -/
theorem requestWord_and (w w' : BitVec 1) (a a' : BitVec 7) (v v' : Word) :
    requestWord w a v &&& requestWord w' a' v' = requestWord (w &&& w') (a &&& a') (v &&& v') := by
  unfold requestWord
  rw [BitVec.and_append, BitVec.and_append]

/-- A request word is its three fields (R80). -/
theorem requestWord_fields (q : BitVec 40) :
    requestWord (Request.we q) (Request.addr q) (Request.wdata q) = q := by
  unfold requestWord Request.we Request.addr Request.wdata
  ext k hk
  simp only [BitVec.getElem_append, BitVec.getElem_extractLsb']
  split
  · simp [BitVec.getLsbD_eq_getElem hk]
  · split
    · rw [show 32 + (k - 32) = k by omega, BitVec.getLsbD_eq_getElem hk]
    · rw [show 39 + (k - 32 - 7) = k by omega, BitVec.getLsbD_eq_getElem hk]

@[simp] theorem we_requestWord (w : BitVec 1) (a : BitVec 7) (v : Word) : Request.we (requestWord w a v) = w := by
  unfold requestWord Request.we
  ext k hk
  simp only [BitVec.getElem_extractLsb', BitVec.getLsbD_append]
  rw [if_neg (by omega), if_neg (by omega), show 39 + k - 32 - 7 = k by omega, BitVec.getLsbD_eq_getElem hk]

@[simp] theorem addr_requestWord (w : BitVec 1) (a : BitVec 7) (v : Word) :
    Request.addr (requestWord w a v) = a := by
  unfold requestWord Request.addr
  ext k hk
  simp only [BitVec.getElem_extractLsb', BitVec.getLsbD_append]
  rw [if_neg (by omega), if_pos (by omega), show 32 + k - 32 = k by omega, BitVec.getLsbD_eq_getElem hk]

@[simp] theorem wdata_requestWord (w : BitVec 1) (a : BitVec 7) (v : Word) :
    Request.wdata (requestWord w a v) = v := by
  unfold requestWord Request.wdata
  ext k hk
  simp only [BitVec.getElem_extractLsb', BitVec.getLsbD_append]
  rw [if_pos (by omega), show 0 + k = k by omega, BitVec.getLsbD_eq_getElem hk]

/-- `top` is `we` and `addr` (R90). -/
theorem top_eq (q : BitVec 40) : Request.top q = Request.we q ++ Request.addr q := by
  unfold Request.top Request.we Request.addr
  apply BitVec.eq_of_getLsbD_eq
  intro k hk
  rw [BitVec.getLsbD_append]
  simp only [BitVec.getLsbD_extractLsb', hk, decide_true, Bool.true_and]
  split
  · rename_i h7
    rw [decide_eq_true h7, Bool.true_and]
  · rw [show 39 + (k - 7) = 32 + k by omega, decide_eq_true (show k - 7 < 1 by omega), Bool.true_and]

@[simp] theorem top_requestWord (w : BitVec 1) (a : BitVec 7) (v : Word) :
    Request.top (requestWord w a v) = w ++ a := by
  simp [top_eq]

/-- The index of `HASHi` is read from the address alone (R89). -/
theorem hashIndex_eq (q : BitVec 40) : Request.hashIndex q = ((Request.addr q).extractLsb' 2 3).toFin := by
  unfold Request.hashIndex Request.addr
  congr 1
  ext k hk
  simp only [BitVec.getElem_extractLsb', BitVec.getLsbD_extractLsb']
  rw [decide_eq_true (show 2 + k < 7 by omega), Bool.true_and, show 32 + (2 + k) = 34 + k by omega]

/-- The index of `BLKi` is read from the address alone (R89). -/
theorem blockIndex_eq (q : BitVec 40) : Request.blockIndex q = ((Request.addr q).extractLsb' 2 4).toFin := by
  unfold Request.blockIndex Request.addr
  congr 1
  ext k hk
  simp only [BitVec.getElem_extractLsb', BitVec.getLsbD_extractLsb']
  rw [decide_eq_true (show 2 + k < 7 by omega), Bool.true_and, show 32 + (2 + k) = 34 + k by omega]

end Sys2Proof
end

