-- ==== Sys2Proof/Laws/Exec.lean ====
section
/-! SUPPORT. `exec` of each instruction is its meaning: one equation per arm. -/

namespace Sys2Proof.Machine

@[simp] theorem exec_start (s : State) : exec .start s = execStart s := rfl
@[simp] theorem exec_abort (s : State) : exec .abort s = execAbort s := rfl
@[simp] theorem exec_compress (s : State) : exec .compress s = execCompress s := rfl
@[simp] theorem exec_rdstat (s : State) : exec .rdstat s = execRdstat s := rfl
@[simp] theorem exec_rdlenl (s : State) : exec .rdlenl s = execRdlenl s := rfl
@[simp] theorem exec_wrlenl (v : Word) (s : State) : exec (.wrlenl v) s = execWrlenl v s := rfl
@[simp] theorem exec_rdlenh (s : State) : exec .rdlenh s = execRdlenh s := rfl
@[simp] theorem exec_wrlenh (v : Word) (s : State) : exec (.wrlenh v) s = execWrlenh v s := rfl
@[simp] theorem exec_wrb (b : Byte) (s : State) : exec (.wrb b) s = execWrb b s := rfl
@[simp] theorem exec_rdcntl (s : State) : exec .rdcntl s = execRdcntl s := rfl
@[simp] theorem exec_rdcnth (s : State) : exec .rdcnth s = execRdcnth s := rfl
@[simp] theorem exec_rdh (k : Fin 8) (s : State) : exec (.rdh k) s = execRdh k s := rfl
@[simp] theorem exec_wrh (k : Fin 8) (v : Word) (s : State) : exec (.wrh k v) s = execWrh k v s := rfl
@[simp] theorem exec_rdblk (k : Fin 16) (s : State) : exec (.rdblk k) s = execRdblk k s := rfl
@[simp] theorem exec_wrblk (k : Fin 16) (v : Word) (s : State) : exec (.wrblk k v) s = execWrblk k v s := rfl
@[simp] theorem exec_sched (s : State) : exec .sched s = execSched s := rfl
@[simp] theorem exec_loadv (s : State) : exec .loadv s = execLoadv s := rfl
@[simp] theorem exec_round (s : State) : exec .round s = execRound s := rfl
@[simp] theorem exec_feed (s : State) : exec .feed s = execFeed s := rfl
@[simp] theorem exec_pad80 (s : State) : exec .pad80 s = execPad80 s := rfl
@[simp] theorem exec_padz (s : State) : exec .padz s = execPadz s := rfl
@[simp] theorem exec_padlen (s : State) : exec .padlen s = execPadlen s := rfl
@[simp] theorem exec_finish (s : State) : exec .finish s = execFinish s := rfl

end Sys2Proof.Machine
end

