-- ==== Sys2Proof/Laws/State.lean ====
section
/-! SUPPORT. One lemma per field per update: what each named update of the state leaves in each field. -/

namespace Sys2Proof.Machine

/-! ### respond -/

@[simp] theorem State.respond_H (s : State) (c : RspCode) (r : Word) : (s.respond c r).H = s.H := rfl
@[simp] theorem State.respond_V (s : State) (c : RspCode) (r : Word) : (s.respond c r).V = s.V := rfl
@[simp] theorem State.respond_W (s : State) (c : RspCode) (r : Word) : (s.respond c r).W = s.W := rfl
@[simp] theorem State.respond_B (s : State) (c : RspCode) (r : Word) : (s.respond c r).B = s.B := rfl
@[simp] theorem State.respond_fill (s : State) (c : RspCode) (r : Word) : (s.respond c r).fill = s.fill := rfl
@[simp] theorem State.respond_LEN (s : State) (c : RspCode) (r : Word) : (s.respond c r).LEN = s.LEN := rfl
@[simp] theorem State.respond_rem (s : State) (c : RspCode) (r : Word) : (s.respond c r).rem = s.rem := rfl
@[simp] theorem State.respond_blkcnt (s : State) (c : RspCode) (r : Word) : (s.respond c r).blkcnt = s.blkcnt := rfl
@[simp] theorem State.respond_t (s : State) (c : RspCode) (r : Word) : (s.respond c r).t = s.t := rfl
@[simp] theorem State.respond_cphase (s : State) (c : RspCode) (r : Word) : (s.respond c r).cphase = s.cphase := rfl
@[simp] theorem State.respond_fphase (s : State) (c : RspCode) (r : Word) : (s.respond c r).fphase = s.fphase := rfl
@[simp] theorem State.respond_K (s : State) (c : RspCode) (r : Word) : (s.respond c r).K = s.K := rfl
@[simp] theorem State.respond_H0 (s : State) (c : RspCode) (r : Word) : (s.respond c r).H0 = s.H0 := rfl
@[simp] theorem State.respond_requests (s : State) (c : RspCode) (r : Word) : (s.respond c r).requests = s.requests := rfl
@[simp] theorem State.respond_pending (s : State) (c : RspCode) (r : Word) : (s.respond c r).pending = some ⟨c, r⟩ := rfl
@[simp] theorem State.respond_responses (s : State) (c : RspCode) (r : Word) : (s.respond c r).responses = s.responses := rfl
@[simp] theorem State.respond_resetLine (s : State) (c : RspCode) (r : Word) : (s.respond c r).resetLine = s.resetLine := rfl

/-! ### raise -/

@[simp] theorem State.raise_H (s : State) (c : RspCode) : (s.raise c).H = s.H := rfl
@[simp] theorem State.raise_V (s : State) (c : RspCode) : (s.raise c).V = s.V := rfl
@[simp] theorem State.raise_W (s : State) (c : RspCode) : (s.raise c).W = s.W := rfl
@[simp] theorem State.raise_B (s : State) (c : RspCode) : (s.raise c).B = s.B := rfl
@[simp] theorem State.raise_fill (s : State) (c : RspCode) : (s.raise c).fill = s.fill := rfl
@[simp] theorem State.raise_LEN (s : State) (c : RspCode) : (s.raise c).LEN = s.LEN := rfl
@[simp] theorem State.raise_rem (s : State) (c : RspCode) : (s.raise c).rem = s.rem := rfl
@[simp] theorem State.raise_blkcnt (s : State) (c : RspCode) : (s.raise c).blkcnt = s.blkcnt := rfl
@[simp] theorem State.raise_t (s : State) (c : RspCode) : (s.raise c).t = s.t := rfl
@[simp] theorem State.raise_cphase (s : State) (c : RspCode) : (s.raise c).cphase = s.cphase := rfl
@[simp] theorem State.raise_fphase (s : State) (c : RspCode) : (s.raise c).fphase = s.fphase := rfl
@[simp] theorem State.raise_K (s : State) (c : RspCode) : (s.raise c).K = s.K := rfl
@[simp] theorem State.raise_H0 (s : State) (c : RspCode) : (s.raise c).H0 = s.H0 := rfl
@[simp] theorem State.raise_requests (s : State) (c : RspCode) : (s.raise c).requests = s.requests := rfl
@[simp] theorem State.raise_pending (s : State) (c : RspCode) : (s.raise c).pending = some ⟨c, 0#32⟩ := rfl
@[simp] theorem State.raise_responses (s : State) (c : RspCode) : (s.raise c).responses = s.responses := rfl
@[simp] theorem State.raise_resetLine (s : State) (c : RspCode) : (s.raise c).resetLine = s.resetLine := rfl

/-! ### callCompress -/

@[simp] theorem State.callCompress_H (s : State) : (s.callCompress).H = s.H := rfl
@[simp] theorem State.callCompress_V (s : State) : (s.callCompress).V = s.V := rfl
@[simp] theorem State.callCompress_W (s : State) : (s.callCompress).W = s.W := rfl
@[simp] theorem State.callCompress_B (s : State) : (s.callCompress).B = s.B := rfl
@[simp] theorem State.callCompress_fill (s : State) : (s.callCompress).fill = s.fill := rfl
@[simp] theorem State.callCompress_LEN (s : State) : (s.callCompress).LEN = s.LEN := rfl
@[simp] theorem State.callCompress_rem (s : State) : (s.callCompress).rem = s.rem := rfl
@[simp] theorem State.callCompress_blkcnt (s : State) : (s.callCompress).blkcnt = s.blkcnt := rfl
@[simp] theorem State.callCompress_t (s : State) : (s.callCompress).t = 0#6 := rfl
@[simp] theorem State.callCompress_cphase (s : State) : (s.callCompress).cphase = .cSched := rfl
@[simp] theorem State.callCompress_fphase (s : State) : (s.callCompress).fphase = s.fphase := rfl
@[simp] theorem State.callCompress_K (s : State) : (s.callCompress).K = s.K := rfl
@[simp] theorem State.callCompress_H0 (s : State) : (s.callCompress).H0 = s.H0 := rfl
@[simp] theorem State.callCompress_requests (s : State) : (s.callCompress).requests = s.requests := rfl
@[simp] theorem State.callCompress_pending (s : State) : (s.callCompress).pending = s.pending := rfl
@[simp] theorem State.callCompress_responses (s : State) : (s.callCompress).responses = s.responses := rfl
@[simp] theorem State.callCompress_resetLine (s : State) : (s.callCompress).resetLine = s.resetLine := rfl

/-! ### putByte -/

@[simp] theorem State.putByte_H (s : State) (x : Byte) (h : s.fill.val < 64) : (s.putByte x h).H = s.H := rfl
@[simp] theorem State.putByte_V (s : State) (x : Byte) (h : s.fill.val < 64) : (s.putByte x h).V = s.V := rfl
@[simp] theorem State.putByte_W (s : State) (x : Byte) (h : s.fill.val < 64) : (s.putByte x h).W = s.W := rfl
@[simp] theorem State.putByte_B (s : State) (x : Byte) (h : s.fill.val < 64) : (s.putByte x h).B = s.B.set s.fill.val x := rfl
@[simp] theorem State.putByte_fill (s : State) (x : Byte) (h : s.fill.val < 64) : (s.putByte x h).fill = ⟨s.fill.val + 1, by omega⟩ := rfl
@[simp] theorem State.putByte_LEN (s : State) (x : Byte) (h : s.fill.val < 64) : (s.putByte x h).LEN = s.LEN := rfl
@[simp] theorem State.putByte_rem (s : State) (x : Byte) (h : s.fill.val < 64) : (s.putByte x h).rem = s.rem := rfl
@[simp] theorem State.putByte_blkcnt (s : State) (x : Byte) (h : s.fill.val < 64) : (s.putByte x h).blkcnt = s.blkcnt := rfl
@[simp] theorem State.putByte_t (s : State) (x : Byte) (h : s.fill.val < 64) : (s.putByte x h).t = s.t := rfl
@[simp] theorem State.putByte_cphase (s : State) (x : Byte) (h : s.fill.val < 64) : (s.putByte x h).cphase = s.cphase := rfl
@[simp] theorem State.putByte_fphase (s : State) (x : Byte) (h : s.fill.val < 64) : (s.putByte x h).fphase = s.fphase := rfl
@[simp] theorem State.putByte_K (s : State) (x : Byte) (h : s.fill.val < 64) : (s.putByte x h).K = s.K := rfl
@[simp] theorem State.putByte_H0 (s : State) (x : Byte) (h : s.fill.val < 64) : (s.putByte x h).H0 = s.H0 := rfl
@[simp] theorem State.putByte_requests (s : State) (x : Byte) (h : s.fill.val < 64) : (s.putByte x h).requests = s.requests := rfl
@[simp] theorem State.putByte_pending (s : State) (x : Byte) (h : s.fill.val < 64) : (s.putByte x h).pending = s.pending := rfl
@[simp] theorem State.putByte_responses (s : State) (x : Byte) (h : s.fill.val < 64) : (s.putByte x h).responses = s.responses := rfl
@[simp] theorem State.putByte_resetLine (s : State) (x : Byte) (h : s.fill.val < 64) : (s.putByte x h).resetLine = s.resetLine := rfl

/-! ### reseed -/

@[simp] theorem State.reseed_H (s : State) : (s.reseed).H = s.H0 := rfl
@[simp] theorem State.reseed_V (s : State) : (s.reseed).V = s.V := rfl
@[simp] theorem State.reseed_W (s : State) : (s.reseed).W = s.W := rfl
@[simp] theorem State.reseed_B (s : State) : (s.reseed).B = s.B := rfl
@[simp] theorem State.reseed_fill (s : State) : (s.reseed).fill = s.fill := rfl
@[simp] theorem State.reseed_LEN (s : State) : (s.reseed).LEN = s.LEN := rfl
@[simp] theorem State.reseed_rem (s : State) : (s.reseed).rem = s.rem := rfl
@[simp] theorem State.reseed_blkcnt (s : State) : (s.reseed).blkcnt = s.blkcnt := rfl
@[simp] theorem State.reseed_t (s : State) : (s.reseed).t = s.t := rfl
@[simp] theorem State.reseed_cphase (s : State) : (s.reseed).cphase = s.cphase := rfl
@[simp] theorem State.reseed_fphase (s : State) : (s.reseed).fphase = s.fphase := rfl
@[simp] theorem State.reseed_K (s : State) : (s.reseed).K = s.K := rfl
@[simp] theorem State.reseed_H0 (s : State) : (s.reseed).H0 = s.H0 := rfl
@[simp] theorem State.reseed_requests (s : State) : (s.reseed).requests = s.requests := rfl
@[simp] theorem State.reseed_pending (s : State) : (s.reseed).pending = s.pending := rfl
@[simp] theorem State.reseed_responses (s : State) : (s.reseed).responses = s.responses := rfl
@[simp] theorem State.reseed_resetLine (s : State) : (s.reseed).resetLine = s.resetLine := rfl

/-! ### tickReset -/

@[simp] theorem State.tickReset_H (s : State) : (s.tickReset).H = s.H := rfl
@[simp] theorem State.tickReset_V (s : State) : (s.tickReset).V = s.V := rfl
@[simp] theorem State.tickReset_W (s : State) : (s.tickReset).W = s.W := rfl
@[simp] theorem State.tickReset_B (s : State) : (s.tickReset).B = s.B := rfl
@[simp] theorem State.tickReset_fill (s : State) : (s.tickReset).fill = s.fill := rfl
@[simp] theorem State.tickReset_LEN (s : State) : (s.tickReset).LEN = s.LEN := rfl
@[simp] theorem State.tickReset_rem (s : State) : (s.tickReset).rem = s.rem := rfl
@[simp] theorem State.tickReset_blkcnt (s : State) : (s.tickReset).blkcnt = s.blkcnt := rfl
@[simp] theorem State.tickReset_t (s : State) : (s.tickReset).t = s.t := rfl
@[simp] theorem State.tickReset_cphase (s : State) : (s.tickReset).cphase = s.cphase := rfl
@[simp] theorem State.tickReset_fphase (s : State) : (s.tickReset).fphase = s.fphase := rfl
@[simp] theorem State.tickReset_K (s : State) : (s.tickReset).K = s.K := rfl
@[simp] theorem State.tickReset_H0 (s : State) : (s.tickReset).H0 = s.H0 := rfl
@[simp] theorem State.tickReset_requests (s : State) : (s.tickReset).requests = s.requests := rfl
@[simp] theorem State.tickReset_pending (s : State) : (s.tickReset).pending = s.pending := rfl
@[simp] theorem State.tickReset_responses (s : State) : (s.tickReset).responses = s.responses := rfl
@[simp] theorem State.tickReset_resetLine (s : State) : (s.tickReset).resetLine = s.resetLine.tail := rfl

/-! ### resetEvent -/

@[simp] theorem State.resetEvent_H (s : State) : (s.resetEvent).H = s.H0 := rfl
@[simp] theorem State.resetEvent_V (s : State) : (s.resetEvent).V = s.V := rfl
@[simp] theorem State.resetEvent_W (s : State) : (s.resetEvent).W = s.W := rfl
@[simp] theorem State.resetEvent_B (s : State) : (s.resetEvent).B = s.B := rfl
@[simp] theorem State.resetEvent_fill (s : State) : (s.resetEvent).fill = 0 := rfl
@[simp] theorem State.resetEvent_LEN (s : State) : (s.resetEvent).LEN = 0#64 := rfl
@[simp] theorem State.resetEvent_rem (s : State) : (s.resetEvent).rem = 0#64 := rfl
@[simp] theorem State.resetEvent_blkcnt (s : State) : (s.resetEvent).blkcnt = 0#64 := rfl
@[simp] theorem State.resetEvent_t (s : State) : (s.resetEvent).t = 0#6 := rfl
@[simp] theorem State.resetEvent_cphase (s : State) : (s.resetEvent).cphase = .cIdle := rfl
@[simp] theorem State.resetEvent_fphase (s : State) : (s.resetEvent).fphase = if s.romOK then .fIdle else .fFault := rfl
@[simp] theorem State.resetEvent_K (s : State) : (s.resetEvent).K = s.K := rfl
@[simp] theorem State.resetEvent_H0 (s : State) : (s.resetEvent).H0 = s.H0 := rfl
@[simp] theorem State.resetEvent_requests (s : State) : (s.resetEvent).requests = s.requests := rfl
@[simp] theorem State.resetEvent_pending (s : State) : (s.resetEvent).pending = none := rfl
@[simp] theorem State.resetEvent_responses (s : State) : (s.resetEvent).responses = s.responses := rfl
@[simp] theorem State.resetEvent_resetLine (s : State) : (s.resetEvent).resetLine = s.resetLine := rfl

/-! ### deliver -/

@[simp] theorem State.deliver_H (s : State) : (s.deliver).H = s.H := by
  unfold State.deliver; split <;> (try split) <;> rfl
@[simp] theorem State.deliver_V (s : State) : (s.deliver).V = s.V := by
  unfold State.deliver; split <;> (try split) <;> rfl
@[simp] theorem State.deliver_W (s : State) : (s.deliver).W = s.W := by
  unfold State.deliver; split <;> (try split) <;> rfl
@[simp] theorem State.deliver_B (s : State) : (s.deliver).B = s.B := by
  unfold State.deliver; split <;> (try split) <;> rfl
@[simp] theorem State.deliver_fill (s : State) : (s.deliver).fill = s.fill := by
  unfold State.deliver; split <;> (try split) <;> rfl
@[simp] theorem State.deliver_LEN (s : State) : (s.deliver).LEN = s.LEN := by
  unfold State.deliver; split <;> (try split) <;> rfl
@[simp] theorem State.deliver_rem (s : State) : (s.deliver).rem = s.rem := by
  unfold State.deliver; split <;> (try split) <;> rfl
@[simp] theorem State.deliver_blkcnt (s : State) : (s.deliver).blkcnt = s.blkcnt := by
  unfold State.deliver; split <;> (try split) <;> rfl
@[simp] theorem State.deliver_t (s : State) : (s.deliver).t = s.t := by
  unfold State.deliver; split <;> (try split) <;> rfl
@[simp] theorem State.deliver_cphase (s : State) : (s.deliver).cphase = s.cphase := by
  unfold State.deliver; split <;> (try split) <;> rfl
@[simp] theorem State.deliver_fphase (s : State) : (s.deliver).fphase = s.fphase := by
  unfold State.deliver; split <;> (try split) <;> rfl
@[simp] theorem State.deliver_K (s : State) : (s.deliver).K = s.K := by
  unfold State.deliver; split <;> (try split) <;> rfl
@[simp] theorem State.deliver_H0 (s : State) : (s.deliver).H0 = s.H0 := by
  unfold State.deliver; split <;> (try split) <;> rfl
@[simp] theorem State.deliver_requests (s : State) : (s.deliver).requests = s.requests := by
  unfold State.deliver; split <;> (try split) <;> rfl
@[simp] theorem State.deliver_resetLine (s : State) : (s.deliver).resetLine = s.resetLine := by
  unfold State.deliver; split <;> (try split) <;> rfl

/-! ### advance -/

@[simp] theorem State.advance_H (s : State) (n : CPhase) : (s.advance n).H = s.H := by
  unfold State.advance; split <;> rfl
@[simp] theorem State.advance_V (s : State) (n : CPhase) : (s.advance n).V = s.V := by
  unfold State.advance; split <;> rfl
@[simp] theorem State.advance_W (s : State) (n : CPhase) : (s.advance n).W = s.W := by
  unfold State.advance; split <;> rfl
@[simp] theorem State.advance_B (s : State) (n : CPhase) : (s.advance n).B = s.B := by
  unfold State.advance; split <;> rfl
@[simp] theorem State.advance_fill (s : State) (n : CPhase) : (s.advance n).fill = s.fill := by
  unfold State.advance; split <;> rfl
@[simp] theorem State.advance_LEN (s : State) (n : CPhase) : (s.advance n).LEN = s.LEN := by
  unfold State.advance; split <;> rfl
@[simp] theorem State.advance_rem (s : State) (n : CPhase) : (s.advance n).rem = s.rem := by
  unfold State.advance; split <;> rfl
@[simp] theorem State.advance_blkcnt (s : State) (n : CPhase) : (s.advance n).blkcnt = s.blkcnt := by
  unfold State.advance; split <;> rfl
@[simp] theorem State.advance_fphase (s : State) (n : CPhase) : (s.advance n).fphase = s.fphase := by
  unfold State.advance; split <;> rfl
@[simp] theorem State.advance_K (s : State) (n : CPhase) : (s.advance n).K = s.K := by
  unfold State.advance; split <;> rfl
@[simp] theorem State.advance_H0 (s : State) (n : CPhase) : (s.advance n).H0 = s.H0 := by
  unfold State.advance; split <;> rfl
@[simp] theorem State.advance_requests (s : State) (n : CPhase) : (s.advance n).requests = s.requests := by
  unfold State.advance; split <;> rfl
@[simp] theorem State.advance_pending (s : State) (n : CPhase) : (s.advance n).pending = s.pending := by
  unfold State.advance; split <;> rfl
@[simp] theorem State.advance_responses (s : State) (n : CPhase) : (s.advance n).responses = s.responses := by
  unfold State.advance; split <;> rfl
@[simp] theorem State.advance_resetLine (s : State) (n : CPhase) : (s.advance n).resetLine = s.resetLine := by
  unfold State.advance; split <;> rfl

/-! ### refuseIllegal -/

@[simp] theorem State.refuseIllegal_H (s : State) : (s.refuseIllegal).H = s.H := by
  unfold State.refuseIllegal; split <;> rfl
@[simp] theorem State.refuseIllegal_V (s : State) : (s.refuseIllegal).V = s.V := by
  unfold State.refuseIllegal; split <;> rfl
@[simp] theorem State.refuseIllegal_W (s : State) : (s.refuseIllegal).W = s.W := by
  unfold State.refuseIllegal; split <;> rfl
@[simp] theorem State.refuseIllegal_B (s : State) : (s.refuseIllegal).B = s.B := by
  unfold State.refuseIllegal; split <;> rfl
@[simp] theorem State.refuseIllegal_fill (s : State) : (s.refuseIllegal).fill = s.fill := by
  unfold State.refuseIllegal; split <;> rfl
@[simp] theorem State.refuseIllegal_LEN (s : State) : (s.refuseIllegal).LEN = s.LEN := by
  unfold State.refuseIllegal; split <;> rfl
@[simp] theorem State.refuseIllegal_rem (s : State) : (s.refuseIllegal).rem = s.rem := by
  unfold State.refuseIllegal; split <;> rfl
@[simp] theorem State.refuseIllegal_blkcnt (s : State) : (s.refuseIllegal).blkcnt = s.blkcnt := by
  unfold State.refuseIllegal; split <;> rfl
@[simp] theorem State.refuseIllegal_t (s : State) : (s.refuseIllegal).t = s.t := by
  unfold State.refuseIllegal; split <;> rfl
@[simp] theorem State.refuseIllegal_cphase (s : State) : (s.refuseIllegal).cphase = s.cphase := by
  unfold State.refuseIllegal; split <;> rfl
@[simp] theorem State.refuseIllegal_fphase (s : State) : (s.refuseIllegal).fphase = s.fphase := by
  unfold State.refuseIllegal; split <;> rfl
@[simp] theorem State.refuseIllegal_K (s : State) : (s.refuseIllegal).K = s.K := by
  unfold State.refuseIllegal; split <;> rfl
@[simp] theorem State.refuseIllegal_H0 (s : State) : (s.refuseIllegal).H0 = s.H0 := by
  unfold State.refuseIllegal; split <;> rfl
@[simp] theorem State.refuseIllegal_requests (s : State) : (s.refuseIllegal).requests = s.requests := by
  unfold State.refuseIllegal; split <;> rfl
@[simp] theorem State.refuseIllegal_responses (s : State) : (s.refuseIllegal).responses = s.responses := by
  unfold State.refuseIllegal; split <;> rfl
@[simp] theorem State.refuseIllegal_resetLine (s : State) : (s.refuseIllegal).resetLine = s.resetLine := by
  unfold State.refuseIllegal; split <;> rfl

end Sys2Proof.Machine
end

