-- ==== Sys2Proof/Laws/Ops.lean ====
section
/-! SUPPORT. Everything each shared operation can do, once; later proofs cite these and do not unfold the operation. -/

namespace Sys2Proof.Machine

/-- An outcome that maps to a next state is a next state. -/
theorem mapNext_eq_next {f : State → State} {o : Host.Outcome State Fault Refusal} {t : State}
    (h : mapNext f o = .next t) : ∃ s, o = .next s ∧ t = f s := by
  cases o with
  | next s => exact ⟨s, rfl, by simpa [mapNext] using h.symm⟩
  | fault r => simp [mapNext] at h
  | refused r => simp [mapNext] at h

@[simp] theorem mapNext_next (f : State → State) (s : State) : mapNext f (.next s) = .next (f s) := rfl

/-- In its precondition `append` stores the byte and starts the compressor when the block is full (R158). -/
theorem State.append_of_lt (s : State) (x : Byte) (h : s.fill.val < 64) :
    s.append x = .next (if s.fill.val + 1 = 64 then (s.putByte x h).callCompress else s.putByte x h) := by
  simp [State.append, h]

/-- `append` answers a next state only in its precondition, and there are two of them (R158). -/
theorem State.append_cases {s t : State} {x : Byte} (h : s.append x = .next t) :
    ∃ hf : s.fill.val < 64,
      (s.fill.val = 63 ∧ t = (s.putByte x hf).callCompress) ∨ (s.fill.val < 63 ∧ t = s.putByte x hf) := by
  unfold State.append at h
  split at h
  · rename_i hf
    refine ⟨hf, ?_⟩
    split at h <;> cases h
    · exact .inl ⟨by omega, rfl⟩
    · exact .inr ⟨by omega, rfl⟩
  · cases h

/-- Outside its precondition `append` stops. -/
theorem State.append_full (s : State) (x : Byte) (h : ¬ s.fill.val < 64) : s.append x = .fault .appendFull := by
  simp [State.append, h]

/-- The four ways a transaction answers a next state (R213, R214). -/
theorem State.transact_cases {s t : State} {i : Instr} {f : State → Host.Outcome State Fault Refusal}
    (h : s.transact i f = .next t) :
    (s.quiescent = false ∧ t = s) ∨
    (s.quiescent = true ∧ s.fphase = .fFault ∧ i ≠ .rdstat ∧ t = s.raise .eInit) ∨
    (s.quiescent = true ∧ (s.fphase = .fFault → i = .rdstat) ∧ allowed i s.fphase = false ∧ t = s.raise .eSeq) ∨
    (s.quiescent = true ∧ (s.fphase = .fFault → i = .rdstat) ∧ allowed i s.fphase = true ∧ f s = .next t) := by
  unfold State.transact at h
  split at h
  · rename_i hq; cases h; exact .inl ⟨hq, rfl⟩
  · rename_i hq
    have hq' : s.quiescent = true := by simpa using hq
    split at h
    · rename_i hf; cases h; exact .inr (.inl ⟨hq', hf.1, hf.2, rfl⟩)
    · rename_i hf
      have hf' : s.fphase = .fFault → i = .rdstat := fun e => by
        by_contra hne
        exact hf ⟨e, hne⟩
      split at h
      · rename_i ha; cases h; exact .inr (.inr (.inl ⟨hq', hf', ha, rfl⟩))
      · rename_i ha; exact .inr (.inr (.inr ⟨hq', hf', by simpa using ha, h⟩))

/-- A transaction presented to a busy engine is not accepted (R213). -/
theorem State.transact_busy {s : State} (i : Instr) (f : State → Host.Outcome State Fault Refusal)
    (h : s.quiescent = false) : s.transact i f = .next s := by
  simp [State.transact, h]

/-- A transaction in the fault phase is answered `E_INIT`, unless it is RDSTAT (R262). -/
theorem State.transact_fault {s : State} {i : Instr} (f : State → Host.Outcome State Fault Refusal)
    (hq : s.quiescent = true) (hf : s.fphase = .fFault) (hi : i ≠ .rdstat) :
    s.transact i f = .next (s.raise .eInit) := by
  simp [State.transact, hq, hf, hi]

/-- A transaction the phase does not allow is answered `E_SEQ` (R264). -/
theorem State.transact_refused {s : State} {i : Instr} (f : State → Host.Outcome State Fault Refusal)
    (hq : s.quiescent = true) (hf : s.fphase ≠ .fFault) (ha : allowed i s.fphase = false) :
    s.transact i f = .next (s.raise .eSeq) := by
  simp [State.transact, hq, hf, ha]

/-- A transaction the phase allows has its effect (R214). -/
theorem State.transact_accepted {s : State} {i : Instr} (f : State → Host.Outcome State Fault Refusal)
    (hq : s.quiescent = true) (hf : s.fphase = .fFault → i = .rdstat) (ha : allowed i s.fphase = true) :
    s.transact i f = f s := by
  unfold State.transact
  rw [if_neg (by simp [hq]), if_neg (fun h => h.2 (hf h.1)), if_neg (by simp [ha])]

/-- A micro-operation answers a next state only when it is enabled (R211). -/
theorem State.microOp_cases {s t : State} {m : String} {e : Bool} {f : State → Host.Outcome State Fault Refusal}
    (h : s.microOp m e f = .next t) : e = true ∧ f s = .next t := by
  unfold State.microOp at h
  split at h
  · exact ⟨‹_›, h⟩
  · cases h

@[simp] theorem State.microOp_enabled (s : State) (m : String) (f : State → Host.Outcome State Fault Refusal) :
    s.microOp m true f = f s := rfl

/-- `advance` at the last index goes to the next phase, and elsewhere counts (R185, R187). -/
theorem State.advance_cases (s : State) (n : CPhase) :
    (s.t = 63#6 ∧ s.advance n = { s with t := 0#6, cphase := n }) ∨
    (s.t ≠ 63#6 ∧ s.advance n = { s with t := s.t + 1#6 }) := by
  unfold State.advance State.tIsLast
  by_cases h : s.t = 63#6
  · exact .inl ⟨h, by simp [h]⟩
  · exact .inr ⟨h, by simp [h]⟩

/-- Delivery: nothing while busy, the pending response in a quiescent state (R213). -/
theorem State.deliver_cases (s : State) :
    (s.quiescent = false ∧ s.deliver = s) ∨
    (s.quiescent = true ∧ s.pending = none ∧ s.deliver = s) ∨
    (∃ r, s.quiescent = true ∧ s.pending = some r ∧
      s.deliver = { s with responses := s.responses ++ [r], pending := none }) := by
  unfold State.deliver
  split
  · rename_i hq
    split
    · rename_i r hr; exact .inr (.inr ⟨r, hq, hr, rfl⟩)
    · rename_i hr; exact .inr (.inl ⟨hq, hr, rfl⟩)
  · rename_i hq; exact .inl ⟨by simpa using hq, rfl⟩

/-- Quiescence reads three fields only. -/
theorem State.quiescent_congr {s t : State} (hc : t.cphase = s.cphase) (hf : t.fphase = s.fphase)
    (hr : t.rem = s.rem) : t.quiescent = s.quiescent := by
  simp [State.quiescent, hc, hf, hr]

@[simp] theorem State.quiescent_deliver (s : State) : s.deliver.quiescent = s.quiescent :=
  State.quiescent_congr (by simp) (by simp) (by simp)

/-- After a delivery nothing is pending in a quiescent state. -/
theorem State.deliver_pending (s : State) : s.deliver.pending = if s.quiescent then none else s.pending := by
  rcases s.deliver_cases with ⟨hq, h⟩ | ⟨hq, hp, h⟩ | ⟨r, hq, hp, h⟩ <;> simp [hq, h]
  exact hp

/-- A malformed request is answered with one of two codes and changes nothing else (R237). -/
theorem State.refuseIllegal_eq (s : State) :
    s.refuseIllegal = s.raise (if s.fphase = .fFault then .eInit else .eIll) := by
  unfold State.refuseIllegal
  split <;> simp_all

/-- The ROM verdict reads the ROM only. -/
theorem State.romOK_congr {s t : State} (hk : t.K = s.K) (hh : t.H0 = s.H0) : t.romOK = s.romOK := by
  simp [State.romOK, hk, hh]

/-- Everything a step's choice can be (R211, R213, R290). -/
theorem State.fetch_cases (s : State) :
    (s.resetAsserted = true ∧ s.fetch = .reset s.tickReset) ∨
    (∃ i, s.resetAsserted = false ∧ s.selected = some i ∧ s.fetch = .run i s.tickReset) ∨
    (s.resetAsserted = false ∧ s.selected = none ∧ s.requests = [] ∧ s.fetch = .wait s.tickReset) ∨
    (∃ q rest i, s.resetAsserted = false ∧ s.selected = none ∧ s.requests = q :: rest ∧ decode q = some i ∧
      s.fetch = .run i { s.tickReset with requests := rest }) ∨
    (∃ q rest, s.resetAsserted = false ∧ s.selected = none ∧ s.requests = q :: rest ∧ decode q = none ∧
      s.fetch = .illegal { s.tickReset with requests := rest }) := by
  unfold State.fetch
  by_cases hr : s.resetAsserted = true
  · exact .inl ⟨hr, by simp [hr]⟩
  have hr' : s.resetAsserted = false := by simpa using hr
  rcases hs : s.selected with _ | i
  · rcases hq : s.requests with _ | ⟨q, rest⟩
    · exact .inr (.inr (.inl ⟨hr', rfl, rfl, by simp [hr']⟩))
    · rcases hd : decode q with _ | i
      · exact .inr (.inr (.inr (.inr ⟨q, rest, hr', rfl, rfl, hd, by simp [hr', hd]⟩)))
      · exact .inr (.inr (.inr (.inl ⟨q, rest, i, hr', rfl, rfl, hd, by simp [hr', hd]⟩)))
  · exact .inr (.inl ⟨i, hr', rfl, by simp [hr']⟩)

end Sys2Proof.Machine
end

