-- ==== Sys2Proof/Laws/PerInstr.lean ====
section
/-! SUPPORT. For every instruction, the row of the opcode table selects the instruction's own encoding (R98). -/

namespace Sys2Proof.Laws.TableRow

/-- The row of `i` selects the word or selector that encodes `i`. -/
abbrev Statement (i : Instr) : Prop := (tableRow i).selects (encode i) = true

/-- A row whose mask leaves out the write data selects a write word whose address it selects. -/
theorem write_selected (addr addrMask : BitVec 7) (v : Word) :
    writeWord addr v &&& requestWord 1#1 addrMask 0#32 = writeWord (addr &&& addrMask) 0#32 := by
  simp [writeWord, requestWord_and]

theorem start : Statement .start := by decide
theorem abort : Statement .abort := by decide
theorem compress : Statement .compress := by decide
theorem rdstat : Statement .rdstat := by decide
theorem rdlenl : Statement .rdlenl := by decide
theorem wrlenl (v : Word) : Statement (.wrlenl v) := decide_eq_true (write_selected 0x08#7 0x7F#7 v)
theorem rdlenh : Statement .rdlenh := by decide
theorem wrlenh (v : Word) : Statement (.wrlenh v) := decide_eq_true (write_selected 0x0C#7 0x7F#7 v)
theorem wrb (b : Byte) : Statement (.wrb b) := by
  have h : writeWord 0x10#7 (b.setWidth 32) &&& requestWord 1#1 0x7F#7 0xFFFFFF00#32 = writeWord 0x10#7 0#32 := by
    simp only [writeWord, requestWord_and]
    congr 1
    revert b
    decide
  exact decide_eq_true h
theorem rdcntl : Statement .rdcntl := by decide
theorem rdcnth : Statement .rdcnth := by decide
theorem rdh (i : Fin 8) : Statement (.rdh i) := by revert i; decide
theorem wrh (i : Fin 8) (v : Word) : Statement (.wrh i v) := by
  have e : hashAddr i &&& 0x63#7 = 0x20#7 := by revert i; decide
  have h := write_selected (hashAddr i) 0x63#7 v
  rw [e] at h
  exact decide_eq_true h
theorem rdblk (i : Fin 16) : Statement (.rdblk i) := by revert i; decide
theorem wrblk (i : Fin 16) (v : Word) : Statement (.wrblk i v) := by
  have e : blockAddr i &&& 0x43#7 = 0x40#7 := by revert i; decide
  have h := write_selected (blockAddr i) 0x43#7 v
  rw [e] at h
  exact decide_eq_true h
theorem sched : Statement .sched := by decide
theorem loadv : Statement .loadv := by decide
theorem round : Statement .round := by decide
theorem feed : Statement .feed := by decide
theorem pad80 : Statement .pad80 := by decide
theorem padz : Statement .padz := by decide
theorem padlen : Statement .padlen := by decide
theorem finish : Statement .finish := by decide

end Sys2Proof.Laws.TableRow
end

