-- ==== Sys2Proof/Laws/Run.lean ====
section
/-! SUPPORT. What processing one request word can do. -/

namespace Sys2Proof.Machine

/-- A word that decodes is processed as its instruction. -/
theorem execRequest_of_some {q : BitVec 40} {i : Instr} (s : State) (h : decode q = some i) :
    execRequest q s = exec i s := by
  simp [execRequest, h]

/-- A malformed word is refused in a quiescent state (R214, R237). -/
theorem execRequest_of_none {q : BitVec 40} {s : State} (h : decode q = none) (hq : s.quiescent = true) :
    execRequest q s = .next s.refuseIllegal := by
  simp [execRequest, h, hq]

end Sys2Proof.Machine
end

