-- ==== Sys2Proof/Tests/Slice0.lean ====
section
/-! SUPPORT. Tests: expected values are the spec's own (95_test_vectors and the rules cited), and for every statement a
state and operands that meet its hypotheses, at the boundary values of each clause. -/

namespace Sys2Proof.Tests

open Sys2Proof.Machine

/-! ## Small states -/

/-- The state after reset with the three free draws replaced by zeros, as the vectors of section 7 assume for `B`. -/
def idle : State :=
  { State.reset with
    B := Vector.replicate 64 0#8
    W := Vector.replicate 64 0#32
    V := Vector.replicate 8 0#32 }

/-- A digest run of `len` bytes that awaits `rem` more and has `fill` bytes buffered. -/
def inRun (len rem : Nat) (fill : Fin 65) : State :=
  { idle with fphase := .fMsg, LEN := BitVec.ofNat 64 len, rem := BitVec.ofNat 64 rem, fill }

/-- The phase after a completed run of 3 bytes (section 7, sequence C). -/
def done : State := { idle with fphase := .fDone, LEN := 3#64, blkcnt := 1#64 }

/-- A padding state with `fill` bytes buffered. -/
def padding (len : Nat) (fill : Fin 65) : State := { idle with fphase := .fPadz, LEN := BitVec.ofNat 64 len, fill }

/-- The ROM with `K[17] = efbe4787`, after reset (section 7, sequence B). -/
def faulty : State := { idle with K := kTable.set 17 0xefbe4787#32 }.resetEvent

/-- A compressor state. -/
def compressing (p : CPhase) (t : BitVec 6) : State := { idle with cphase := p, t, fill := 64 }

/-- The answer to a test on the next state; a stop fails it. -/
def nextIs (o : Host.Outcome State Fault Refusal) (p : State → Bool) : Bool :=
  match o with
  | .next s => p s
  | .fault _ => false
  | .refused _ => false

/-- The response of a transaction. -/
def answers (o : Host.Outcome State Fault Refusal) (c : RspCode) (r : Word) : Bool :=
  nextIs o fun s => s.pending == some ⟨c, r⟩

/-! ## Well-formedness: one malformed request per check (R66, R237) -/

theorem test_wf_good : Request.wellFormed 0x9000000061#40 = true := by decide
theorem test_wf_misaligned : Request.misaligned 0x2100000000#40 = true ∧ Request.wellFormed 0x2100000000#40 = false := by
  decide
theorem test_wf_reserved :
    Request.reservedAddress 0x9C00000000#40 = true ∧ Request.wellFormed 0x9C00000000#40 = false ∧
    Request.wellFormed 0x1C00000000#40 = false := by decide
theorem test_wf_write_only :
    Request.readsWriteOnly 0x1000000000#40 = true ∧ Request.wellFormed 0x1000000000#40 = false ∧
    Request.wellFormed 0x0000000000#40 = false := by decide
theorem test_wf_read_only :
    Request.writesReadOnly 0x9800000005#40 = true ∧ Request.wellFormed 0x9800000005#40 = false ∧
    Request.wellFormed 0x8400000000#40 = false ∧ Request.wellFormed 0x9400000000#40 = false := by decide
theorem test_wf_command :
    Request.badCommand 0x8000000004#40 = true ∧ Request.wellFormed 0x8000000004#40 = false ∧
    Request.wellFormed 0x8000000000#40 = false ∧ Request.wellFormed 0x8000000101#40 = false := by decide
theorem test_wf_byte : Request.badByte 0x9000000100#40 = true ∧ Request.wellFormed 0x9000000100#40 = false := by decide

/-! ## Decoding: words written bit by bit from R80 (`we`, `addr`, `wdata`) and R92 (`fphase`, `cphase`) -/

theorem test_decode_start : decode 0b1_0000000_00000000000000000000000000000001#40 = some .start := by decide
theorem test_decode_abort : decode 0b1_0000000_00000000000000000000000000000010#40 = some .abort := by decide
theorem test_decode_compress : decode 0b1_0000000_00000000000000000000000000000011#40 = some .compress := by decide
theorem test_decode_rdstat : decode 0b0_0000100_10100000000000000000000000000001#40 = some .rdstat := by decide
theorem test_decode_rdlenl : decode 0b0_0001000_00000000000000000000000000000000#40 = some .rdlenl := by decide
theorem test_decode_wrlenl :
    decode 0b1_0001000_11111111111111111111111111111110#40 = some (.wrlenl 0xfffffffe#32) := by decide
theorem test_decode_rdlenh : decode 0b0_0001100_00000000000000000000000000000000#40 = some .rdlenh := by decide
theorem test_decode_wrlenh :
    decode 0b1_0001100_00011111111111111111111111111111#40 = some (.wrlenh 0x1fffffff#32) := by decide
theorem test_decode_wrb : decode 0b1_0010000_00000000000000000000000001100001#40 = some (.wrb 0x61#8) := by decide
theorem test_decode_rdcntl : decode 0b0_0010100_00000000000000000000000000000000#40 = some .rdcntl := by decide
theorem test_decode_rdcnth : decode 0b0_0011000_00000000000000000000000000000000#40 = some .rdcnth := by decide
theorem test_decode_rdh : decode 0b0_0111100_00000000000000000000000000000000#40 = some (.rdh 7) := by decide
theorem test_decode_wrh :
    decode 0b1_0100100_10111011011001111010111010000101#40 = some (.wrh 1 0xbb67ae85#32) := by decide
theorem test_decode_rdblk : decode 0b0_1111100_00000000000000000000000000000000#40 = some (.rdblk 15) := by decide
theorem test_decode_wrblk :
    decode 0b1_1000100_01100001011000100110001110000000#40 = some (.wrblk 1 0x61626380#32) := by decide
theorem test_decode_sched : decodeUop 0b001_001#6 true true = some .sched := by decide
theorem test_decode_loadv : decodeUop 0b011_010#6 false false = some .loadv := by decide
theorem test_decode_round : decodeUop 0b000_011#6 true false = some .round := by decide
theorem test_decode_feed : decodeUop 0b001_100#6 false true = some .feed := by decide
theorem test_decode_pad80 : decodeUop 0b001_000#6 true true = some .pad80 := by decide
theorem test_decode_padz : decodeUop 0b010_000#6 true false = some .padz := by decide
theorem test_decode_padlen : decodeUop 0b010_000#6 true true = some .padlen := by decide
theorem test_decode_finish : decodeUop 0b011_000#6 true false = some .finish := by decide

/-- In `F_MSG` with bytes awaited, and in `F_IDLE`, `F_DONE`, `F_FAULT`, no micro-operation is enabled (R92, R210). -/
theorem test_decode_quiescent :
    decodeUop 0b001_000#6 false true = none ∧ decodeUop 0b000_000#6 true false = none ∧
    decodeUop 0b100_000#6 true true = none ∧ decodeUop 0b111_000#6 false false = none := by decide

/-! ## The instructions, one step each -/

/-- Section 7, row 22: `LEN = 2^61 - 1` is accepted and `rem` takes it. -/
theorem test_start_longest :
    nextIs (exec .start { idle with LEN := 0x1fffffffffffffff#64, fill := 9 }) (fun t =>
      decide (t.fphase = .fMsg ∧ t.rem = 0x1fffffffffffffff#64 ∧ t.fill = 0 ∧ t.pending = some ⟨.ok, 0#32⟩)) = true := by
  decide
/-- Section 7, row 18: `LEN = 2^61` is refused and the phase stays 0. -/
theorem test_start_too_long :
    nextIs (exec .start { idle with LEN := 0x2000000000000000#64 }) (fun t =>
      decide (t.fphase = .fIdle ∧ t.pending = some ⟨.eLen, 0#32⟩)) = true := by decide
/-- Section 7, row 36. -/
theorem test_abort_in_run :
    nextIs (exec .abort (inRun 5 4 1)) (fun t =>
      decide (t.fphase = .fIdle ∧ t.rem = 0#64 ∧ t.fill = 0 ∧ t.LEN = 5#64 ∧ t.H = h0Table)) = true := by decide
/-- R222, and R223: the phase `F_DONE` is left. -/
theorem test_compress_from_done :
    nextIs (exec .compress done) (fun t =>
      decide (t.fphase = .fIdle ∧ t.cphase = .cSched ∧ t.t = 0#6 ∧ t.fill = 64 ∧ t.blkcnt = 1#64)) = true := by decide
/-- Section 7, row 27. -/
theorem test_compress_in_run : answers (exec .compress (inRun 5 4 1)) .eSeq 0#32 = true := by decide
/-- Section 7, sequence C row 1 and sequence B row 1. -/
theorem test_rdstat : answers (exec .rdstat done) .ok 4#32 = true ∧ answers (exec .rdstat faulty) .ok 7#32 = true := by
  decide
/-- Section 7, rows 24 and 25: the length is readable during the run. -/
theorem test_rdlen_in_run :
    answers (exec .rdlenl (inRun 0x1fffffff12345678 1 0)) .ok 0x12345678#32 = true ∧
    answers (exec .rdlenh (inRun 0x1fffffff12345678 1 0)) .ok 0x1fffffff#32 = true := by decide
/-- R229 and R230: each write keeps the other half. -/
theorem test_wrlen_halves :
    nextIs (exec (.wrlenl 0xffffffff#32) { idle with LEN := 0x1122334455667788#64 }) (fun t =>
      decide (t.LEN = 0x11223344ffffffff#64)) = true ∧
    nextIs (exec (.wrlenh 0x20000000#32) { idle with LEN := 0x1122334455667788#64 }) (fun t =>
      decide (t.LEN = 0x2000000055667788#64)) = true := by decide
/-- Section 7, row 28. -/
theorem test_wrlen_in_run : answers (exec (.wrlenl 5#32) (inRun 5 4 1)) .eSeq 0#32 = true := by decide
/-- R225: the 64th byte of a block starts the compressor in the same step. -/
theorem test_wrb_completes_the_block :
    nextIs (exec (.wrb 0x62#8) (inRun 100 37 63)) (fun t =>
      decide (t.cphase = .cSched ∧ t.fill = 64 ∧ t.rem = 36#64 ∧ t.B.get 63 = 0x62#8 ∧ t.fphase = .fMsg)) = true := by
  decide
/-- Section 7, row 4, and sequence C row 2. -/
theorem test_wrb_outside_a_run :
    answers (exec (.wrb 0x61#8) idle) .eSeq 0#32 = true ∧ answers (exec (.wrb 0x64#8) done) .eSeq 0#32 = true := by
  decide
/-- Section 7, sequence C rows 3 and 4, and the two halves of a large count. -/
theorem test_rdcnt :
    answers (exec .rdcntl done) .ok 1#32 = true ∧
    answers (exec .rdcnth { done with blkcnt := 0xaabbccdd00000001#64 }) .ok 0xaabbccdd#32 = true := by decide
/-- Section 7, rows 2 and 3. -/
theorem test_rdh :
    answers (exec (.rdh 0) idle) .ok 0x6a09e667#32 = true ∧ answers (exec (.rdh 7) idle) .ok 0x5be0cd19#32 = true := by
  decide
/-- R232: the Word written is the one read, its neighbour is not. -/
theorem test_wrh :
    nextIs (exec (.wrh 7 0xdeadbeef#32) done) (fun t =>
      decide (t.H.get 7 = 0xdeadbeef#32 ∧ t.H.get 6 = 0x1f83d9ab#32 ∧ t.fphase = .fDone)) = true := by decide
/-- R233 and R57: the first byte is the most significant; section 7, row 39. -/
theorem test_rdblk :
    answers (exec (.rdblk 0) { idle with B := idle.B.set 0 0xff#8 }) .ok 0xff000000#32 = true ∧
    answers (exec (.rdblk 15) { idle with B := idle.B.set 63 0x18#8 }) .ok 0x00000018#32 = true := by decide
/-- R234: most significant byte first, the last Word of the block. -/
theorem test_wrblk :
    nextIs (exec (.wrblk 15 0x61626380#32) idle) (fun t =>
      decide (t.B.get 60 = 0x61#8 ∧ t.B.get 61 = 0x62#8 ∧ t.B.get 62 = 0x63#8 ∧ t.B.get 63 = 0x80#8 ∧
        t.B.get 59 = 0#8 ∧ t.fill = 0)) = true := by decide
/-- Section 7, sequence B rows 2 to 8. -/
theorem test_fault_phase :
    answers (exec .start faulty) .eInit 0#32 = true ∧ answers (exec (.rdh 0) faulty) .eInit 0#32 = true ∧
    answers (exec (.wrlenl 3#32) faulty) .eInit 0#32 = true ∧ answers (exec .abort faulty) .eInit 0#32 = true ∧
    answers (exec .rdcntl faulty) .eInit 0#32 = true := by decide
/-- R161: section 4, `fill` 3 to 4 for "abc". -/
theorem test_pad80 :
    nextIs (exec .pad80 (inRun 3 0 3)) (fun t =>
      decide (t.fill = 4 ∧ t.B.get 3 = 0x80#8 ∧ t.fphase = .fPadz ∧ t.cphase = .cIdle)) = true := by decide
/-- R162: section 4, the 7th PADZ of the 56-byte message calls the compressor. -/
theorem test_padz :
    nextIs (exec .padz { padding 56 63 with B := idle.B.set 63 0xaa#8 }) (fun t =>
      decide (t.fill = 64 ∧ t.B.get 63 = 0#8 ∧ t.fphase = .fPadz ∧ t.cphase = .cSched)) = true := by decide
/-- Section 4, "Length field at the upper limit". -/
theorem test_padlen :
    nextIs (exec .padlen (padding 0x1fffffffffffffff 56)) (fun t =>
      decide (t.B.get 55 = 0#8 ∧ t.B.get 56 = 0xff#8 ∧ t.B.get 62 = 0xff#8 ∧ t.B.get 63 = 0xf8#8 ∧
        t.fill = 64 ∧ t.fphase = .fLast ∧ t.cphase = .cSched)) = true := by decide
/-- R164. -/
theorem test_finish : nextIs (exec .finish { idle with fphase := .fLast }) (fun t => decide (t.fphase = .fDone)) = true := by
  decide
/-- Section 5: `W[0]` of the "abc" block is its first Word. -/
theorem test_sched_parses :
    nextIs (exec .sched { compressing .cSched 0#6 with B := setBlockWord idle.B 0 0x61626380#32 }) (fun t =>
      decide (t.W.get 0 = 0x61626380#32 ∧ t.t = 1#6 ∧ t.cphase = .cSched)) = true := by decide
/-- Section 5: `W[17] = 000f0000`, from `W[15] = 00000018`, `W[10] = W[2] = W[1] = 0`. -/
theorem test_sched_expands :
    nextIs (exec .sched { compressing .cSched 17#6 with W := (idle.W.set 0 0x61626380#32).set 15 0x00000018#32 })
      (fun t => decide (t.W.get 17 = 0x000f0000#32 ∧ t.W.get 16 = 0#32 ∧ t.t = 18#6)) = true := by decide
/-- R186. -/
theorem test_loadv :
    nextIs (exec .loadv (compressing .cInit 0#6)) (fun t => decide (t.V = h0Table ∧ t.cphase = .cRound)) = true := by
  decide
/-- Section 5, round 0 of the "abc" block. -/
theorem test_round_0 :
    nextIs (exec .round { compressing .cRound 0#6 with V := h0Table, W := idle.W.set 0 0x61626380#32 }) (fun t =>
      decide (t.V = #v[0x5d6aebcd#32, 0x6a09e667#32, 0xbb67ae85#32, 0x3c6ef372#32, 0xfa2a4622#32, 0x510e527f#32,
        0x9b05688c#32, 0x1f83d9ab#32] ∧ t.t = 1#6)) = true := by decide
/-- Section 5, round 63 of the "abc" block, with `W[63] = 12b1edeb`. -/
theorem test_round_63 :
    nextIs (exec .round { compressing .cRound 63#6 with
      V := #v[0xd39a2165#32, 0x04d24d6c#32, 0xb85e2ce9#32, 0xb6ae8fff#32, 0xfb121210#32, 0x948d25b6#32, 0x961f4894#32,
        0xb21bad3d#32]
      W := idle.W.set 63 0x12b1edeb#32 }) (fun t =>
      decide (t.V.get 0 = 0x506e3058#32 ∧ t.V.get 4 = 0x5ef50f24#32 ∧ t.t = 0#6 ∧ t.cphase = .cFeed)) = true := by decide
/-- Section 5, the feed-forward of the "abc" block; the count wraps (R188). -/
theorem test_feed :
    nextIs (exec .feed { compressing .cFeed 0#6 with
      V := #v[0x506e3058#32, 0xd39a2165#32, 0x04d24d6c#32, 0xb85e2ce9#32, 0x5ef50f24#32, 0xfb121210#32, 0x948d25b6#32,
        0x961f4894#32]
      blkcnt := 0xffffffffffffffff#64 }) (fun t =>
      decide (t.H = #v[0xba7816bf#32, 0x8f01cfea#32, 0x414140de#32, 0x5dae2223#32, 0xb00361a3#32, 0x96177a9c#32,
        0xb410ff61#32, 0xf20015ad#32] ∧ t.blkcnt = 0#64 ∧ t.fill = 0 ∧ t.cphase = .cIdle)) = true := by decide

/-! ## The machine's steps -/

/-- R213: an accepted read is answered and delivered in one step. -/
theorem test_step_request :
    nextIs (step { idle with requests := [0x2000000000#40] }) (fun t =>
      decide (t.responses = [⟨.ok, 0x6a09e667#32⟩] ∧ t.pending = none ∧ t.requests = [])) = true := by decide
/-- Section 7, row 12. -/
theorem test_step_malformed :
    nextIs (step { idle with requests := [0x2100000000#40] }) (fun t =>
      decide (t.responses = [⟨.eIll, 0#32⟩])) = true := by decide
/-- R213: a malformed word presented to a busy engine is not yet accepted (log entry 9). -/
theorem test_malformed_when_busy :
    nextIs (execRequest 0x2100000000#40 { compressing .cRound 5#6 with pending := some ⟨.ok, 0#32⟩ }) (fun t =>
      decide (t.pending = some ⟨.ok, 0#32⟩ ∧ t.cphase = .cRound)) = true := by decide
/-- R290 and section 3: with `K[17] = efbe4787` reset leaves the fault phase. -/
theorem test_reset_faulty_rom : faulty.fphase = .fFault := by decide
/-- R292: reset during a compression, with a request waiting, drops the response in progress. -/
theorem test_reset_when_busy :
    nextIs (step { compressing .cRound 40#6 with
      resetLine := [true], pending := some ⟨.ok, 0#32⟩, requests := [0x0400000000#40] }) (fun t =>
      decide (t.cphase = .cIdle ∧ t.t = 0#6 ∧ t.fill = 0 ∧ t.pending = none ∧ t.responses = [] ∧
        t.requests = [0x0400000000#40])) = true := by decide
/-- The first instruction after reset is the one placed (log entry 12). -/
theorem test_withFetchWord :
    nextIs (step (State.reset.withFetchWord 40 0x8800000003)) (fun t => decide (t.LEN = 3#64)) = true ∧
    nextIs (step (State.reset.withFetchWord 8 0b001000)) (fun t => decide (t.fphase = .fPadz)) = true := by decide

/-! ## Datapath values of section 2 -/

theorem test_sigmas :
    bigSigma0 0x61626380#32 = 0x8dd59276#32 ∧ bigSigma1 0x61626380#32 = 0xc0b865f2#32 ∧
    smallSigma0 0x61626380#32 = 0x940e90ef#32 ∧ smallSigma1 0x61626380#32 = 0x7da86405#32 := by decide
theorem test_ch_maj :
    ch 0xf0f0f0f0#32 0xcccccccc#32 0xaaaaaaaa#32 = 0xcacacaca#32 ∧
    maj 0xf0f0f0f0#32 0xcccccccc#32 0xaaaaaaaa#32 = 0xe8e8e8e8#32 := by decide
/-- Section 4: 55 bytes make one block, 56 and 64 make two. -/
theorem test_block_count :
    blockCount 55 = 1 ∧ blockCount 56 = 2 ∧ blockCount 64 = 2 ∧ zeroBytes 55 = 0 ∧ zeroBytes 56 = 63 := by decide

/-! ## Witnesses: a state and operands that meet the hypotheses of each statement -/

theorem test_witness_EncodeDecodeRoundTrip :
    decode 0xa4bb67ae85#40 = some (.wrh 1 0xbb67ae85#32) ∧ Request.we 0xa4bb67ae85#40 = 1#1 ∧
    decode 0x3c12345678#40 = some (.rdh 7) ∧ Request.we 0x3c12345678#40 = 0#1 := by decide
theorem test_witness_WriteDataIgnoredOnReadsOnly :
    tableRow .rdstat = .req 0x0400000000#40 0xff00000000#40 ∧ Request.we 0x0400000000#40 = 0#1 ∧
    decode (requestWord 1#1 0x7C#7 0xffffffff#32) = some (.wrblk 15 0xffffffff#32) := by decide
theorem test_witness_DecoderAgreesWithOpcodeTable :
    decode 0x7c00000000#40 = some (.rdblk 15) ∧ (tableRow (.rdblk 0)).selects (.req 0x7c00000000#40) = true ∧
    (tableRow .padlen).selects (.uop 0b010000#6 true true) = true := by decide
theorem test_witness_StepRunsTheEnabledMicroOp :
    (inRun 3 0 3).resetAsserted = false ∧ enabledIn .pad80 (inRun 3 0 3) ∧
    (compressing .cFeed 0#6).resetAsserted = false ∧ enabledIn .feed (compressing .cFeed 0#6) := by
  refine ⟨by decide, ⟨by decide, by decide, by decide⟩, by decide, (by decide : (compressing .cFeed 0#6).cphase = .cFeed)⟩
theorem test_witness_StepRunsTheDecodedRequest :
    let s := { idle with requests := [0x8000000003#40] }
    s.resetAsserted = false ∧ s.quiescent = true ∧ s.requests = 0x8000000003#40 :: [] ∧
    decode 0x8000000003#40 = some .compress := by decide
theorem test_witness_DeliveryHandsOverThePendingResponse :
    (compressing .cSched 0#6).quiescent = false ∧
    (idle.answered .ok 7#32).quiescent = true ∧ (idle.answered .ok 7#32).pending = some ⟨.ok, 7#32⟩ ∧
    idle.pending = none := by decide
theorem test_witness_MalformedRequestIsRefused :
    let s := { idle with requests := [0x8000000101#40] }
    s.resetAsserted = false ∧ s.quiescent = true ∧ s.requests = 0x8000000101#40 :: [] ∧
    Request.wellFormed 0x8000000101#40 = false ∧ s.fphase ≠ .fFault ∧ faulty.quiescent = true ∧
    faulty.fphase = .fFault := by decide
theorem test_witness_QuiescentEngineWaits :
    idle.resetAsserted = false ∧ idle.quiescent = true ∧ idle.requests = [] := by decide
theorem test_witness_BusyEngineTakesNoRequest :
    (compressing .cFeed 0#6).resetAsserted = false ∧ (compressing .cFeed 0#6).quiescent = false ∧
    nextIs (step (compressing .cFeed 0#6)) (fun t => t.quiescent) = true ∧
    (compressing .cSched 0#6).quiescent = false ∧
    nextIs (step (compressing .cSched 0#6)) (fun t => !t.quiescent) = true := by decide
/-- Of AbortAbandonsTheRun, CompressStartsTheCompressor, LengthAndCountReads, HashAndBlockReads, the writes, and
MicroStepsOfATransaction. -/
theorem test_witness_idle_phases : idle.inIdlePhase ∧ done.inIdlePhase := by decide
/-- Of every clause on a waiting digest run, at `fill` 1, 63 and 64. -/
theorem test_witness_awaits_byte : (inRun 100 37 63).awaitsByte ∧ (inRun 5 4 1).awaitsByte ∧ (inRun 64 1 64).awaitsByte := by
  decide
/-- Of every clause on the fault phase, and of the second clause of ErrorsChangeNothing and RdstatAnswersThePhase. -/
theorem test_witness_fault_phase : faulty.inFault ∧ faulty.quiescent = true := by decide
theorem test_witness_StartBeginsADigestRun :
    { idle with LEN := 0x1fffffffffffffff#64 }.inIdlePhase ∧ (0x1fffffffffffffff#64 : DWord).toNat < 2 ^ 61 ∧
    { done with LEN := 0x2000000000000000#64 }.inIdlePhase ∧ 2 ^ 61 ≤ (0x2000000000000000#64 : DWord).toNat := by decide
theorem test_witness_ReadsFollowTheRegisterMap :
    idle.inIdlePhase ∧ readAddress (.rdh 7) = some 0x3C#7 ∧ readAddress (.rdblk 15) = some 0x7C#7 ∧
    readAddress .rdstat = some 0x04#7 := by decide
theorem test_witness_WrbAbsorbsOneByte :
    (inRun 100 37 63).awaitsByte ∧ (inRun 100 37 63).fill.val ≤ 63 ∧ (inRun 3 3 0).awaitsByte ∧
    (inRun 3 3 0).fill.val ≤ 63 ∧ (inRun 64 1 64).awaitsByte ∧ (inRun 64 1 64).fill.val = 64 := by decide
theorem test_witness_ErrorsChangeNothing :
    isTransaction (.wrb 0#8) = true ∧ idle.quiescent = true ∧ answers (exec (.wrb 0#8) idle) .eSeq 0#32 = true := by
  decide
theorem test_witness_ResponseCodesByPriority :
    isTransaction .start = true ∧ idle.quiescent = true ∧ idle.fill.val ≤ 63 ∧ (inRun 5 4 63).quiescent = true ∧
    (inRun 5 4 63).fill.val ≤ 63 := by decide
theorem test_witness_FaultPhaseAnswersOnlyStatus :
    let s := { faulty with requests := [0x0400000000#40, 0x8400000000#40] }
    s.inFault ∧ s.resetAsserted = false ∧ s.requests = 0x0400000000#40 :: [0x8400000000#40] := by decide
theorem test_witness_NoIntermediateStateIsExposed :
    let s := inRun 5 4 1
    let s' := { s with H := Vector.replicate 8 0#32 }
    isTransaction (.rdh 0) = true ∧ s.awaitsByte ∧ s.fill.val ≤ 63 ∧
    s' = { s with H := s'.H, B := s'.B, V := s'.V, W := s'.W } := by decide
theorem test_witness_Pad80AppendsTheOneBit :
    (inRun 3 0 63).cphase = .cIdle ∧ (inRun 3 0 63).fphase = .fMsg ∧ (inRun 3 0 63).rem = 0#64 ∧
    (inRun 3 0 63).fill.val ≤ 63 ∧ (inRun 3 0 64).rem = 0#64 ∧ (inRun 3 0 64).fill.val = 64 := by decide
theorem test_witness_PadzAppendsAZeroByte :
    (padding 56 63).cphase = .cIdle ∧ (padding 56 63).fphase = .fPadz ∧ (padding 56 63).fill.val ≠ 56 ∧
    (padding 56 63).fill.val ≤ 63 ∧ (padding 56 0).fill.val ≠ 56 ∧ (padding 56 64).fill.val = 64 := by decide
theorem test_witness_PadlenWritesTheBitLength :
    (padding 3 56).cphase = .cIdle ∧ (padding 3 56).fphase = .fPadz ∧ (padding 3 56).fill.val = 56 := by decide
theorem test_witness_FinishEndsTheRun :
    { idle with fphase := .fLast }.cphase = .cIdle ∧ { idle with fphase := .fLast }.fphase = .fLast := by decide
theorem test_witness_PaddingFillsWholeBlocks :
    (List.replicate 55 0#8).length % 64 ≤ 55 ∧ 56 ≤ (List.replicate 56 0#8).length % 64 ∧ (55 + 1 + 0) % 64 = 56 := by
  decide
/-- Of SchedWritesOneScheduleWord at `t` 15, 16 and 63, LoadvCopiesTheState, RoundMixesOnce, FeedAddsTheWorkingVariables. -/
theorem test_witness_compressor_phases :
    (compressing .cSched 63#6).cphase = .cSched ∧ (compressing .cSched 15#6).t.toNat = 15 ∧
    (compressing .cSched 16#6).t.toNat = 16 ∧ (compressing .cInit 0#6).cphase = .cInit ∧ (compressing .cInit 0#6).t = 0#6 ∧
    (compressing .cRound 63#6).cphase = .cRound ∧ (compressing .cFeed 0#6).cphase = .cFeed := by decide
/-- Of the second clause of LoadvCopiesTheState. -/
theorem test_witness_LoadvCopiesTheState : (compressing .cInit 0#6).cphase = .cInit ∧ (compressing .cInit 0#6).CoreInv :=
  ⟨by decide, by decide, by decide, by decide, by decide, by decide, by decide, by decide⟩
theorem test_witness_RoundMixesOnce :
    let s := { compressing .cRound 63#6 with V := h0Table }
    s.cphase = .cRound ∧ s.V = #v[0x6a09e667#32, 0xbb67ae85#32, 0x3c6ef372#32, 0xa54ff53a#32, 0x510e527f#32,
      0x9b05688c#32, 0x1f83d9ab#32, 0x5be0cd19#32] := by decide
theorem test_witness_NothingRunsOutOfTurn :
    isTransaction .start = true ∧ (compressing .cSched 0#6).quiescent = false ∧ isTransaction .feed = false ∧
    ¬ enabledIn .feed idle := by
  refine ⟨by decide, by decide, by decide, (by decide : ¬ idle.cphase = .cFeed)⟩
theorem test_witness_NothingDisturbsACompression :
    let s := compressing .cRound 63#6
    s.cphase ≠ .cIdle ∧ s.resetAsserted = false ∧ s.cphase ≠ .cFeed ∧ nextIs (step s) (fun _ => true) = true := by decide
theorem test_witness_DatapathFunctionsBitByBit : 1 ≤ 1 ∧ 1 ≤ 31 ∧ 31 ≤ 31 ∧ 0 < 32 ∧ 31 < 32 := by decide
/-- The last bit that `shr` fills from the operand, and the first it fills with 0: the one-bit operands of R121, R122. -/
theorem test_sigma_shift_edges :
    smallSigma0 0x80000000#32 = 0x11002000#32 ∧ smallSigma0 0x00000001#32 = 0x02004000#32 ∧
    smallSigma1 0x80000000#32 = 0x00205000#32 ∧ smallSigma1 0x00000001#32 = 0x0000a000#32 := by decide
theorem test_witness_ResetEventFromAnyState :
    { compressing .cRound 5#6 with resetLine := [true, false] }.resetLine = true :: [false] := by decide

/-- R42 at reset, and in a busy state of a run: the clauses one by one. -/
theorem test_witness_CoreInv_reset : State.reset.CoreInv :=
  ⟨by decide, by decide, by decide, by decide, by decide, by decide, by decide⟩
theorem test_witness_Inv_reset : State.reset.Inv := ⟨test_witness_CoreInv_reset, by decide⟩
/-- The faulty ROM meets the invariant in the fault phase. -/
theorem test_witness_Inv_faulty : faulty.Inv :=
  ⟨⟨by decide, by decide, by decide, by decide, by decide, by decide, by decide⟩, by decide⟩

/-- A run of 64 bytes whose last byte has just completed the block: busy, with a response pending. -/
def lastByte : State := { inRun 64 0 64 with cphase := .cSched, pending := some ⟨.ok, 0#32⟩ }

/-- Of OneResponsePerRequest, EveryStepKeepsTheInvariant and EveryStepAnswersANextState. -/
theorem test_witness_Inv_busy : lastByte.Inv ∧ lastByte.quiescent = false ∧ lastByte.resetAsserted = false ∧
    nextIs (step lastByte) (fun _ => true) = true :=
  ⟨⟨⟨by decide, by decide, by decide, by decide, by decide, by decide, by decide⟩, by decide⟩, by decide, by decide,
    by decide⟩
/-- A waiting state of a run: one byte before the end of a block of a longer message, and the last byte of a message. -/
theorem test_witness_MicroStepsOfATransaction :
    (inRun 100 37 63).CoreInv ∧ (inRun 100 37 63).awaitsByte ∧ (inRun 100 37 63).rem ≠ 1#64 ∧
    (inRun 56 1 55).CoreInv ∧ (inRun 56 1 55).awaitsByte ∧ (inRun 56 1 55).rem = 1#64 ∧ idle.inIdlePhase ∧
    idle.LEN.toNat < 2 ^ 61 :=
  ⟨⟨by decide, by decide, by decide, by decide, by decide, by decide, by decide⟩, by decide, by decide,
    ⟨by decide, by decide, by decide, by decide, by decide, by decide, by decide⟩, by decide, by decide, by decide,
    by decide⟩
/-- Of the clauses of MicroStepsOfATransaction that count none. -/
theorem test_witness_no_micro_steps :
    isTransaction .abort = true ∧ (inRun 5 4 1).quiescent = true ∧
    nextIs (exec .abort (inRun 5 4 1)) (fun _ => true) = true ∧
    isTransaction .start = true ∧ answers (exec .start (inRun 5 4 1)) .eSeq 0#32 = true ∧ faulty.quiescent = true := by
  decide
/-- Of MicroStepsCountDown and RunReachesQuiescence. -/
theorem test_witness_MicroStepsCountDown : lastByte.CoreInv ∧ lastByte.quiescent = false :=
  ⟨test_witness_Inv_busy.1.core, by decide⟩
/-- Of RomIsNeverWritten and PhasesMoveAlongTheEdges. -/
theorem test_witness_next_states :
    nextIs (step idle) (fun _ => true) = true ∧ nextIs (step lastByte) (fun _ => true) = true ∧
    idle.resetAsserted = false := by decide
theorem test_witness_WritersOfEachRegister :
    nextIs (exec .feed (compressing .cFeed 0#6)) (fun t => decide (t.fill ≠ (compressing .cFeed 0#6).fill)) = true ∧
    nextIs (exec .sched (compressing .cSched 63#6)) (fun t => decide (t.cphase ≠ .cSched)) = true ∧
    nextIs (exec .round (compressing .cRound 63#6)) (fun t => decide (t.cphase ≠ .cRound)) = true ∧
    nextIs (exec .compress done) (fun t => decide (t.cphase ≠ done.cphase ∧ t.fphase ≠ done.fphase)) = true := by
  decide
theorem test_witness_ScratchRegistersNeverMatter :
    State.sameButScratch { idle with V := h0Table } idle ∧
    State.sameButScratch { compressing .cSched 1#6 with W := idle.W.set 1 7#32 } (compressing .cSched 1#6) :=
  ⟨⟨by decide, trivial⟩, ⟨by decide, (by decide : ∀ k : Fin 64, k.val < (1#6 : BitVec 6).toNat →
    (idle.W.set 1 7#32).get k = idle.W.get k)⟩⟩
theorem test_witness_StepsCarryOutTheTransaction :
    { State.reset with requests := [0x8000000001#40] }.Inv ∧
    { State.reset with requests := [0x8000000001#40] }.quiescent = true ∧
    { State.reset with requests := [0x8000000001#40] }.resetLine = [] ∧
    { State.reset with requests := [0x8000000001#40] }.requests = 0x8000000001#40 :: [] :=
  ⟨⟨⟨by decide, by decide, by decide, by decide, by decide, by decide, by decide⟩, by decide⟩, by decide, rfl, rfl⟩
theorem test_witness_RawModeComputesCompress :
    idle.inIdlePhase ∧ ∀ i : Fin 16, blockWord idle.B i = (Vector.replicate 16 0#32).get i := by decide
/-- Also for the empty message. -/
theorem test_witness_HashProgramComputesTheDigest :
    State.reset.romOK = true ∧ State.reset.inIdlePhase ∧ [0x61#8, 0x62#8, 0x63#8].length < 2 ^ 61 ∧
    ([] : List Byte).length < 2 ^ 61 := by decide

end Sys2Proof.Tests
end

section
/-! SUPPORT. What `exec` and `step` can do, said once: each next state with the condition under which it is answered.
The proofs about the state as a whole are case splits on these two relations. -/

namespace Sys2Proof.Machine

/-! ### The condition a transaction or a micro-operation needs -/

/-- The engine accepts the transaction and the phase allows it (R53, R213). -/
def State.accepts (s : State) (i : Instr) : Prop := s.quiescent = true ∧ allowed i s.fphase = true

/-- The four groups of quiescent states (R210). -/
theorem State.quiescent_iff {s : State} :
    s.quiescent = true ↔ s.cphase = .cIdle ∧
      (s.fphase = .fIdle ∨ s.fphase = .fDone ∨ s.fphase = .fFault ∨ s.fphase = .fMsg ∧ s.rem ≠ 0#64) := by
  simp [State.quiescent, or_assoc]

theorem State.cphase_of_quiescent {s : State} (h : s.quiescent = true) : s.cphase = .cIdle :=
  (State.quiescent_iff.1 h).1

theorem State.not_quiescent_of_running {s : State} (h : s.cphase ≠ .cIdle) : s.quiescent = false := by
  simp [State.quiescent, h]

theorem State.accepts.cphase {s : State} {i : Instr} (h : s.accepts i) : s.cphase = .cIdle :=
  State.cphase_of_quiescent h.1

theorem FPhase.isIdle_iff {p : FPhase} : p.isIdle = true ↔ p = .fIdle ∨ p = .fDone := by
  cases p <;> simp [FPhase.isIdle]

theorem FPhase.isWorking_iff {p : FPhase} : p.isWorking = true ↔ p = .fIdle ∨ p = .fMsg ∨ p = .fDone := by
  cases p <;> simp [FPhase.isWorking]

/-- The fault phase allows RDSTAT alone (R142). -/
theorem allowed_fFault {i : Instr} : allowed i .fFault = true ↔ i = .rdstat := by
  cases i <;> simp [allowed, FPhase.isIdle, FPhase.isWorking]

/-- WRB is accepted exactly while a byte is awaited. -/
theorem State.accepts_wrb {s : State} {b : Byte} : s.accepts (.wrb b) ↔ s.awaitsByte := by
  simp only [State.accepts, State.quiescent_iff, allowed, decide_eq_true_eq]
  constructor
  · rintro ⟨⟨hc, h⟩, hf⟩
    exact ⟨hc, hf, by simpa [hf] using h⟩
  · rintro ⟨hc, hf, hr⟩
    exact ⟨⟨hc, .inr (.inr (.inr ⟨hf, hr⟩))⟩, hf⟩

theorem State.quiescent_of_awaitsByte {s : State} (h : s.awaitsByte) : s.quiescent = true :=
  (State.accepts_wrb.2 h : s.accepts (.wrb 0#8)).1

/-- An enabled micro-operation makes the engine busy (R210). -/
theorem not_quiescent_of_enabledIn {i : Instr} {s : State} (h : enabledIn i s) : s.quiescent = false := by
  cases i <;> simp_all [enabledIn, State.quiescent]

/-- A busy engine has an enabled micro-operation (R211). -/
theorem exists_enabledIn {s : State} (h : s.quiescent = false) : ∃ i, enabledIn i s := by
  cases hc : s.cphase with
  | cSched => exact ⟨.sched, hc⟩
  | cInit => exact ⟨.loadv, hc⟩
  | cRound => exact ⟨.round, hc⟩
  | cFeed => exact ⟨.feed, hc⟩
  | cIdle =>
    cases hf : s.fphase with
    | fMsg => exact ⟨.pad80, hc, hf, by simpa [State.quiescent, hc, hf] using h⟩
    | fPadz =>
      by_cases h56 : s.fill.val = 56
      · exact ⟨.padlen, hc, hf, h56⟩
      · exact ⟨.padz, hc, hf, h56⟩
    | fLast => exact ⟨.finish, hc, hf⟩
    | _ => simp [State.quiescent, hc, hf] at h

/-- The low field of the selector is the compressor's phase (R92). -/
theorem State.usel_low (s : State) : s.usel.extractLsb' 0 3 = s.cphase.code := by
  unfold State.usel
  generalize s.fphase.code = f
  generalize s.cphase.code = c
  revert f c
  decide

/-- The high field of the selector is the formatter's phase (R92). -/
theorem State.usel_high (s : State) : s.usel.extractLsb' 3 3 = s.fphase.code := by
  unfold State.usel
  generalize s.fphase.code = f
  generalize s.cphase.code = c
  revert f c
  decide

theorem selected_of_enabledIn {i : Instr} {s : State} (h : enabledIn i s) : s.selected = some i := by
  unfold State.selected decodeUop
  rw [State.usel_low, State.usel_high]
  cases i with
  | sched | loadv | round | feed =>
    have hc : s.cphase = _ := h
    simp [hc, CPhase.code]
  | pad80 | padz | padlen =>
    obtain ⟨hc, hf, hx⟩ : s.cphase = _ ∧ s.fphase = _ ∧ _ := h
    simp [hc, hf, hx, CPhase.code, FPhase.code, State.remIsZero, State.fillIs56]
  | finish =>
    obtain ⟨hc, hf⟩ : s.cphase = _ ∧ s.fphase = _ := h
    simp [hc, hf, CPhase.code, FPhase.code]
  | _ => exact h.elim

theorem State.selected_of_quiescent {s : State} (h : s.quiescent = true) : s.selected = none := by
  obtain ⟨hc, hf⟩ := State.quiescent_iff.1 h
  unfold State.selected decodeUop
  rw [State.usel_low, State.usel_high]
  rcases hf with hf | hf | hf | ⟨hf, hr⟩ <;> simp [*, CPhase.code, FPhase.code, State.remIsZero]

/-- The selector chooses nothing exactly in the quiescent states (R92, R210). -/
theorem State.selected_eq_none {s : State} : s.selected = none ↔ s.quiescent = true := by
  refine ⟨fun h => ?_, State.selected_of_quiescent⟩
  by_contra hq
  obtain ⟨i, hi⟩ := exists_enabledIn (by simpa using hq)
  simp [selected_of_enabledIn hi] at h

/-- The selector chooses a micro-operation exactly when that one is enabled (R92, R211). -/
theorem State.selected_eq_some {s : State} {i : Instr} : s.selected = some i ↔ enabledIn i s := by
  refine ⟨fun h => ?_, selected_of_enabledIn⟩
  have hq : s.quiescent = false := by
    by_contra hq
    simp [State.selected_of_quiescent (by simpa using hq : s.quiescent = true)] at h
  obtain ⟨j, hj⟩ := exists_enabledIn hq
  have hij : i = j := Option.some.inj (h.symm.trans (selected_of_enabledIn hj))
  rwa [hij]

/-! ### The state after `append` -/

/-- The state `append` answers in its precondition (R158). -/
def State.appended (s : State) (x : Byte) (h : s.fill.val < 64) : State :=
  if s.fill.val + 1 = 64 then (s.putByte x h).callCompress else s.putByte x h

theorem State.append_eq_next_iff {s t : State} {x : Byte} :
    s.append x = .next t ↔ ∃ h : s.fill.val < 64, t = s.appended x h := by
  constructor
  · intro h
    obtain ⟨hf, h | h⟩ := State.append_cases h
    · exact ⟨hf, by simp [State.appended, h]⟩
    · exact ⟨hf, by rw [State.appended, if_neg (by omega)]; exact h.2⟩
  · rintro ⟨hf, rfl⟩
    exact State.append_of_lt s x hf

section
variable (s : State) (x : Byte) (h : s.fill.val < 64)

@[simp] theorem State.appended_H : (s.appended x h).H = s.H := by
  unfold State.appended; split <;> rfl
@[simp] theorem State.appended_V : (s.appended x h).V = s.V := by
  unfold State.appended; split <;> rfl
@[simp] theorem State.appended_W : (s.appended x h).W = s.W := by
  unfold State.appended; split <;> rfl
@[simp] theorem State.appended_LEN : (s.appended x h).LEN = s.LEN := by
  unfold State.appended; split <;> rfl
@[simp] theorem State.appended_rem : (s.appended x h).rem = s.rem := by
  unfold State.appended; split <;> rfl
@[simp] theorem State.appended_blkcnt : (s.appended x h).blkcnt = s.blkcnt := by
  unfold State.appended; split <;> rfl
@[simp] theorem State.appended_fphase : (s.appended x h).fphase = s.fphase := by
  unfold State.appended; split <;> rfl
@[simp] theorem State.appended_K : (s.appended x h).K = s.K := by
  unfold State.appended; split <;> rfl
@[simp] theorem State.appended_H0 : (s.appended x h).H0 = s.H0 := by
  unfold State.appended; split <;> rfl
@[simp] theorem State.appended_requests : (s.appended x h).requests = s.requests := by
  unfold State.appended; split <;> rfl
@[simp] theorem State.appended_pending : (s.appended x h).pending = s.pending := by
  unfold State.appended; split <;> rfl
@[simp] theorem State.appended_responses : (s.appended x h).responses = s.responses := by
  unfold State.appended; split <;> rfl
@[simp] theorem State.appended_resetLine : (s.appended x h).resetLine = s.resetLine := by
  unfold State.appended; split <;> rfl
@[simp] theorem State.appended_fill : (s.appended x h).fill.val = s.fill.val + 1 := by
  unfold State.appended; split <;> rfl
theorem State.appended_cphase : (s.appended x h).cphase = if s.fill.val + 1 = 64 then .cSched else s.cphase := by
  unfold State.appended; split <;> rfl
theorem State.appended_t : (s.appended x h).t = if s.fill.val + 1 = 64 then 0#6 else s.t := by
  unfold State.appended; split <;> rfl

end

/-! ### What an instruction does -/

/-- The word a read transaction answers (R223, R227, R228, R231, R233, R235, R236). -/
def State.readResult (s : State) : Instr → Option Word
  | .rdstat => some s.status
  | .rdlenl => some (lowHalf s.LEN)
  | .rdlenh => some (highHalf s.LEN)
  | .rdcntl => some (lowHalf s.blkcnt)
  | .rdcnth => some (highHalf s.blkcnt)
  | .rdh k => some (s.H.get k)
  | .rdblk k => some (blockWord s.B k)
  | _ => none

/-- `Performs s i t`: the instruction `i` takes `s` to `t`.  A transaction is left out, refused or accepted (R213,
R214); a micro-operation is performed where its rule enables it (R211).  `exec_eq_next_iff` ties this to `exec`. -/
inductive Performs (s : State) : Instr → State → Prop
  | busy {i : Instr} (hi : isTransaction i = true) (hq : s.quiescent = false) : Performs s i s
  | faulted {i : Instr} (hi : isTransaction i = true) (hq : s.quiescent = true) (hf : s.fphase = .fFault)
      (hne : i ≠ .rdstat) : Performs s i (s.raise .eInit)
  | outOfTurn {i : Instr} (hi : isTransaction i = true) (hq : s.quiescent = true) (hf : s.fphase ≠ .fFault)
      (ha : allowed i s.fphase = false) : Performs s i (s.raise .eSeq)
  | tooLong (ha : s.accepts .start) (hl : s.lenTooLong = true) : Performs s .start (s.raise .eLen)
  | start (ha : s.accepts .start) (hl : s.lenTooLong = false) :
      Performs s .start
        (State.respond { s.reseed with rem := s.LEN, fill := 0, blkcnt := 0#64, fphase := .fMsg } .ok 0#32)
  | abort (ha : s.accepts .abort) :
      Performs s .abort (State.respond { s.reseed with rem := 0#64, fill := 0, fphase := .fIdle } .ok 0#32)
  | compress (ha : s.accepts .compress) :
      Performs s .compress ((State.callCompress { s with fphase := .fIdle, fill := 64 }).respond .ok 0#32)
  | read {i : Instr} {w : Word} (ha : s.accepts i) (hw : s.readResult i = some w) : Performs s i (s.respond .ok w)
  | wrlenl {v : Word} (ha : s.accepts (.wrlenl v)) :
      Performs s (.wrlenl v) (State.respond { s with LEN := joinHalves (highHalf s.LEN) v } .ok 0#32)
  | wrlenh {v : Word} (ha : s.accepts (.wrlenh v)) :
      Performs s (.wrlenh v) (State.respond { s with LEN := joinHalves v (lowHalf s.LEN) } .ok 0#32)
  | wrb {b : Byte} (ha : s.accepts (.wrb b)) (hf : s.fill.val < 64) :
      Performs s (.wrb b) ((State.appended { s with rem := s.rem - 1#64 } b hf).respond .ok 0#32)
  | wrh {k : Fin 8} {v : Word} (ha : s.accepts (.wrh k v)) :
      Performs s (.wrh k v) (State.respond { s with H := s.H.set k.val v } .ok 0#32)
  | wrblk {k : Fin 16} {v : Word} (ha : s.accepts (.wrblk k v)) :
      Performs s (.wrblk k v) (State.respond { s with B := setBlockWord s.B k v } .ok 0#32)
  | sched (he : s.cphase = .cSched) :
      Performs s .sched (State.advance { s with W := s.W.set s.t.toNat (schedWord s.B s.W s.t) s.t.isLt } .cInit)
  | loadv (he : s.cphase = .cInit) : Performs s .loadv { s with V := s.H, cphase := .cRound }
  | round (he : s.cphase = .cRound) :
      Performs s .round (State.advance { s with V := roundWords s.V (s.K.get s.t.toFin) (s.W.get s.t.toFin) } .cFeed)
  | feed (he : s.cphase = .cFeed) :
      Performs s .feed { s with H := feedWords s.H s.V, blkcnt := s.blkcnt + 1#64, fill := 0, cphase := .cIdle }
  | pad80 (he : enabledIn .pad80 s) (hf : s.fill.val < 64) :
      Performs s .pad80 { s.appended 0x80#8 hf with fphase := .fPadz }
  | padz (he : enabledIn .padz s) (hf : s.fill.val < 64) : Performs s .padz (s.appended 0x00#8 hf)
  | padlen (he : enabledIn .padlen s) :
      Performs s .padlen (State.callCompress
        { s with B := setLengthField s.B (bitLength s.LEN), fill := 64, fphase := .fLast })
  | finish (he : enabledIn .finish s) : Performs s .finish { s with fphase := .fDone }

/-- Every transaction is processed by `transact` (R214). -/
theorem exec_eq_transact {i : Instr} (hi : isTransaction i = true) : ∃ f, ∀ s, exec i s = s.transact i f := by
  cases i with
  | sched | loadv | round | feed | pad80 | padz | padlen | finish => cases hi
  | _ => exact ⟨_, fun _ => rfl⟩

/-- A transaction that answers a next state is left out, refused, or has its effect. -/
theorem performs_of_transact {s t : State} {i : Instr} {f : State → Host.Outcome State Fault Refusal}
    (hi : isTransaction i = true) (h : s.transact i f = .next t)
    (heffect : s.accepts i → f s = .next t → Performs s i t) : Performs s i t := by
  rcases State.transact_cases h with ⟨hq, rfl⟩ | ⟨hq, hf, hne, rfl⟩ | ⟨hq, hf, ha, rfl⟩ | ⟨hq, -, ha, he⟩
  · exact .busy hi hq
  · exact .faulted hi hq hf hne
  · refine .outOfTurn hi hq (fun hfault => ?_) ha
    rw [hf hfault] at ha
    cases ha
  · exact heffect ⟨hq, ha⟩ he

/-- An accepted transaction has its effect (R214). -/
theorem State.transact_of_accepts {s : State} {i : Instr} (f : State → Host.Outcome State Fault Refusal)
    (ha : s.accepts i) : s.transact i f = f s :=
  State.transact_accepted f ha.1 (fun hf => allowed_fFault.1 (hf ▸ ha.2)) ha.2

/-- A next state of `exec` is one that `Performs` names. -/
theorem performs_of_exec {i : Instr} {s t : State} (h : exec i s = .next t) : Performs s i t := by
  cases i with
  | rdstat | rdlenl | rdlenh | rdcntl | rdcnth | rdh | rdblk =>
    simp only [exec_rdstat, exec_rdlenl, exec_rdlenh, exec_rdcntl, exec_rdcnth, exec_rdh, exec_rdblk, execRdstat,
      execRdlenl, execRdlenh, execRdcntl, execRdcnth, execRdh, execRdblk] at h
    refine performs_of_transact rfl h fun ha he => ?_
    cases he
    exact .read ha rfl
  | start =>
    rw [exec_start, execStart] at h
    refine performs_of_transact rfl h fun ha he => ?_
    split at he <;> cases he
    · exact .tooLong ha ‹_›
    · exact .start ha (by simpa using ‹¬s.lenTooLong = true›)
  | abort =>
    rw [exec_abort, execAbort] at h
    exact performs_of_transact rfl h fun ha he => by cases he; exact .abort ha
  | compress =>
    rw [exec_compress, execCompress] at h
    exact performs_of_transact rfl h fun ha he => by cases he; exact .compress ha
  | wrlenl =>
    rw [exec_wrlenl, execWrlenl] at h
    exact performs_of_transact rfl h fun ha he => by cases he; exact .wrlenl ha
  | wrlenh =>
    rw [exec_wrlenh, execWrlenh] at h
    exact performs_of_transact rfl h fun ha he => by cases he; exact .wrlenh ha
  | wrh =>
    rw [exec_wrh, execWrh] at h
    exact performs_of_transact rfl h fun ha he => by cases he; exact .wrh ha
  | wrblk =>
    rw [exec_wrblk, execWrblk] at h
    exact performs_of_transact rfl h fun ha he => by cases he; exact .wrblk ha
  | wrb =>
    rw [exec_wrb, execWrb] at h
    refine performs_of_transact rfl h fun ha he => ?_
    obtain ⟨u, hu, rfl⟩ := mapNext_eq_next he
    obtain ⟨hf, rfl⟩ := State.append_eq_next_iff.1 hu
    exact .wrb ha hf
  | sched | loadv | round | feed =>
    obtain ⟨he, hb⟩ := State.microOp_cases h
    cases hb
    constructor
    exact of_decide_eq_true he
  | padlen =>
    obtain ⟨he, hb⟩ := State.microOp_cases h
    cases hb
    exact .padlen (of_decide_eq_true (p := _ ∧ _ ∧ _) he)
  | finish =>
    obtain ⟨he, hb⟩ := State.microOp_cases h
    cases hb
    exact .finish (of_decide_eq_true (p := _ ∧ _) he)
  | pad80 =>
    rw [exec_pad80, execPad80] at h
    obtain ⟨he, hb⟩ := State.microOp_cases h
    obtain ⟨u, hu, rfl⟩ := mapNext_eq_next hb
    obtain ⟨hf, rfl⟩ := State.append_eq_next_iff.1 hu
    exact .pad80 (of_decide_eq_true (p := _ ∧ _ ∧ _) he) hf
  | padz =>
    rw [exec_padz, execPadz] at h
    obtain ⟨he, hb⟩ := State.microOp_cases h
    obtain ⟨hf, rfl⟩ := State.append_eq_next_iff.1 hb
    exact .padz (of_decide_eq_true (p := _ ∧ _ ∧ _) he) hf

/-- A read transaction that is accepted answers its word and changes nothing else (R65). -/
theorem exec_read {i : Instr} {s : State} {w : Word} (ha : s.accepts i) (hw : s.readResult i = some w) :
    exec i s = .next (s.respond .ok w) := by
  cases i with
  | rdstat | rdlenl | rdlenh | rdcntl | rdcnth | rdh | rdblk =>
    simp only [exec_rdstat, exec_rdlenl, exec_rdlenh, exec_rdcntl, exec_rdcnth, exec_rdh, exec_rdblk, execRdstat,
      execRdlenl, execRdlenh, execRdcntl, execRdcnth, execRdh, execRdblk]
    rw [State.transact_of_accepts _ ha]
    cases hw
    rfl
  | _ => cases hw

theorem exec_of_performs {i : Instr} {s t : State} (h : Performs s i t) : exec i s = .next t := by
  cases h with
  | busy hi hq =>
    obtain ⟨f, hf⟩ := exec_eq_transact hi
    rw [hf, State.transact_busy i f hq]
  | faulted hi hq hfault hne =>
    obtain ⟨f, hf⟩ := exec_eq_transact hi
    rw [hf, State.transact_fault f hq hfault hne]
  | outOfTurn hi hq hnf ha =>
    obtain ⟨f, hf⟩ := exec_eq_transact hi
    rw [hf, State.transact_refused f hq hnf ha]
  | tooLong ha hl => rw [exec_start, execStart, State.transact_of_accepts _ ha, if_pos hl]
  | start ha hl => rw [exec_start, execStart, State.transact_of_accepts _ ha, if_neg (by simp [hl])]
  | read ha hw => exact exec_read ha hw
  | abort ha => rw [exec_abort, execAbort, State.transact_of_accepts _ ha]
  | compress ha => rw [exec_compress, execCompress, State.transact_of_accepts _ ha]
  | wrlenl ha => rw [exec_wrlenl, execWrlenl, State.transact_of_accepts _ ha]
  | wrlenh ha => rw [exec_wrlenh, execWrlenh, State.transact_of_accepts _ ha]
  | wrh ha => rw [exec_wrh, execWrh, State.transact_of_accepts _ ha]
  | wrblk ha => rw [exec_wrblk, execWrblk, State.transact_of_accepts _ ha]
  | @wrb b ha hf =>
    rw [exec_wrb, execWrb, State.transact_of_accepts _ ha]
    exact congrArg (mapNext _) (State.append_of_lt { s with rem := s.rem - 1#64 } b hf)
  | sched he => simp [execSched, he]
  | loadv he => simp [execLoadv, he]
  | round he => simp [execRound, he]
  | feed he => simp [execFeed, he]
  | pad80 he hf => simp [execPad80, show _ ∧ _ ∧ _ from he, State.append_eq_next_iff.2 ⟨hf, rfl⟩]
  | padz he hf => simp [execPadz, show _ ∧ _ ∧ _ from he, State.append_eq_next_iff.2 ⟨hf, rfl⟩]
  | padlen he => simp [execPadlen, show _ ∧ _ ∧ _ from he]
  | finish he => simp [execFinish, show _ ∧ _ from he]

/-- The relation and the model's `exec` are the same. -/
theorem exec_eq_next_iff {i : Instr} {s t : State} : exec i s = .next t ↔ Performs s i t :=
  ⟨performs_of_exec, exec_of_performs⟩

/-! ### What a step does -/

/-- `StepsTo s t`: the reset event, the enabled micro-operation, the next request, or waiting takes `s` to `t` (R211,
R213, R290).  `step_eq_next_iff` ties this to `step`. -/
inductive StepsTo (s : State) : State → Prop
  | reset (hr : s.resetAsserted = true) : StepsTo s s.tickReset.resetEvent
  | micro {i : Instr} {u : State} (hr : s.resetAsserted = false) (he : enabledIn i s)
      (hp : Performs s.tickReset i u) : StepsTo s u.deliver
  | request {q : BitVec 40} {rest : List (BitVec 40)} {i : Instr} {u : State} (hr : s.resetAsserted = false)
      (hq : s.quiescent = true) (hreq : s.requests = q :: rest) (hd : decode q = some i)
      (hp : Performs { s.tickReset with requests := rest } i u) : StepsTo s u.deliver
  | illegal {q : BitVec 40} {rest : List (BitVec 40)} (hr : s.resetAsserted = false) (hq : s.quiescent = true)
      (hreq : s.requests = q :: rest) (hd : decode q = none) :
      StepsTo s (State.deliver (State.refuseIllegal { s.tickReset with requests := rest }))
  | wait (hr : s.resetAsserted = false) (hq : s.quiescent = true) (hreq : s.requests = []) : StepsTo s s.tickReset

theorem stepsTo_of_step {s t : State} (h : step s = .next t) : StepsTo s t := by
  unfold step at h
  rcases s.fetch_cases with ⟨hr, hf⟩ | ⟨i, hr, hs, hf⟩ | ⟨hr, hs, hreq, hf⟩ | ⟨q, rest, i, hr, hs, hreq, hd, hf⟩ |
    ⟨q, rest, hr, hs, hreq, hd, hf⟩ <;> rw [hf] at h
  · cases h
    exact .reset hr
  · obtain ⟨u, hu, rfl⟩ := mapNext_eq_next h
    exact .micro hr (State.selected_eq_some.1 hs) (performs_of_exec hu)
  · cases h
    exact .wait hr (State.selected_eq_none.1 hs) hreq
  · obtain ⟨u, hu, rfl⟩ := mapNext_eq_next h
    exact .request hr (State.selected_eq_none.1 hs) hreq hd (performs_of_exec hu)
  · cases h
    exact .illegal hr (State.selected_eq_none.1 hs) hreq hd

theorem step_of_stepsTo {s t : State} (h : StepsTo s t) : step s = .next t := by
  unfold step State.fetch
  cases h with
  | reset hr => simp [hr]
  | micro hr he hp => simp [hr, State.selected_eq_some.2 he, exec_of_performs hp]
  | request hr hq hreq hd hp =>
    simp only [hr, State.selected_eq_none.2 hq, hreq, hd, exec_of_performs hp, mapNext_next, Bool.false_eq_true,
      if_false]
  | illegal hr hq hreq hd => simp [hr, State.selected_eq_none.2 hq, hreq, hd]
  | wait hr hq hreq => simp [hr, State.selected_eq_none.2 hq, hreq]

/-- The relation and the model's `step` are the same. -/
theorem step_eq_next_iff {s t : State} : step s = .next t ↔ StepsTo s t :=
  ⟨stepsTo_of_step, step_of_stepsTo⟩

end Sys2Proof.Machine
end

section
/-! SUPPORT. What every instruction and every step leaves unchanged: the ROM, the port, each register outside its
writers.  The last theorems of the file settle the obligations about them. -/

namespace Sys2Proof.Machine

/-! ### The ROM and the port -/

section
variable {s t : State} {i : Instr}

theorem Performs.keeps_K (h : Performs s i t) : t.K = s.K := by cases h <;> simp
theorem Performs.keeps_H0 (h : Performs s i t) : t.H0 = s.H0 := by cases h <;> simp
theorem Performs.keeps_requests (h : Performs s i t) : t.requests = s.requests := by cases h <;> simp
theorem Performs.keeps_responses (h : Performs s i t) : t.responses = s.responses := by cases h <;> simp
theorem Performs.keeps_resetLine (h : Performs s i t) : t.resetLine = s.resetLine := by cases h <;> simp

theorem StepsTo.keeps_K (h : StepsTo s t) : t.K = s.K := by
  cases h with
  | micro _ _ hp | request _ _ _ _ hp => simp [hp.keeps_K]
  | _ => simp

theorem StepsTo.keeps_H0 (h : StepsTo s t) : t.H0 = s.H0 := by
  cases h with
  | micro _ _ hp | request _ _ _ _ hp => simp [hp.keeps_H0]
  | _ => simp

/-! ### The writers of each register -/

theorem Performs.writers_H (h : Performs s i t) :
    t.H ≠ s.H → i = .start ∨ i = .abort ∨ i = .feed ∨ ∃ k v, i = .wrh k v := by
  cases h <;> simp

theorem Performs.writers_V (h : Performs s i t) : t.V ≠ s.V → i = .loadv ∨ i = .round := by
  cases h <;> simp

theorem Performs.writers_W (h : Performs s i t) : t.W ≠ s.W → i = .sched := by
  cases h <;> simp

theorem Performs.writers_B (h : Performs s i t) :
    t.B ≠ s.B → i = .pad80 ∨ i = .padz ∨ i = .padlen ∨ (∃ b, i = .wrb b) ∨ ∃ k v, i = .wrblk k v := by
  cases h <;> simp

theorem Performs.writers_fill (h : Performs s i t) :
    t.fill ≠ s.fill → i = .start ∨ i = .abort ∨ i = .compress ∨ i = .feed ∨ i = .pad80 ∨ i = .padz ∨ i = .padlen ∨
      ∃ b, i = .wrb b := by
  cases h <;> simp

theorem Performs.writers_LEN (h : Performs s i t) : t.LEN ≠ s.LEN → (∃ v, i = .wrlenl v) ∨ ∃ v, i = .wrlenh v := by
  cases h <;> simp

theorem Performs.writers_rem (h : Performs s i t) : t.rem ≠ s.rem → i = .start ∨ i = .abort ∨ ∃ b, i = .wrb b := by
  cases h <;> simp

theorem Performs.writers_blkcnt (h : Performs s i t) : t.blkcnt ≠ s.blkcnt → i = .start ∨ i = .feed := by
  cases h <;> simp

theorem Performs.writers_t (h : Performs s i t) :
    t.t ≠ s.t → i = .compress ∨ i = .pad80 ∨ i = .padz ∨ i = .padlen ∨ i = .sched ∨ i = .round ∨ ∃ b, i = .wrb b := by
  cases h <;> simp

/-- Outside the last index `advance` keeps the phase (R185, R187). -/
theorem State.advance_cphase_ne {s : State} {n : CPhase} (h : (s.advance n).cphase ≠ s.cphase) :
    s.t = 63#6 ∧ (s.advance n).cphase = n := by
  rcases s.advance_cases n with ⟨ht, he⟩ | ⟨-, he⟩
  · exact ⟨ht, by rw [he]⟩
  · simp [he] at h

/-- `append` moves the compressor's phase only to start it (R158). -/
theorem State.appended_cphase_ne {s : State} {x : Byte} {hf : s.fill.val < 64}
    (h : (s.appended x hf).cphase ≠ s.cphase) : (s.appended x hf).cphase = .cSched := by
  rw [State.appended_cphase] at h ⊢
  split at h <;> simp_all

theorem Performs.writers_cphase (h : Performs s i t) (hne : t.cphase ≠ s.cphase) :
    ((i = .compress ∨ i = .pad80 ∨ i = .padz ∨ i = .padlen ∨ ∃ b, i = .wrb b) ∧ t.cphase = .cSched) ∨
    (i = .sched ∧ s.t = 63#6 ∧ t.cphase = .cInit) ∨ (i = .loadv ∧ t.cphase = .cRound) ∨
    (i = .round ∧ s.t = 63#6 ∧ t.cphase = .cFeed) ∨ (i = .feed ∧ t.cphase = .cIdle) := by
  cases h with
  | compress | padlen => exact .inl ⟨by simp, rfl⟩
  | wrb | pad80 | padz => exact .inl ⟨by simp, State.appended_cphase_ne hne⟩
  | sched => exact .inr (.inl ⟨rfl, State.advance_cphase_ne hne⟩)
  | loadv => exact .inr (.inr (.inl ⟨rfl, rfl⟩))
  | round => exact .inr (.inr (.inr (.inl ⟨rfl, State.advance_cphase_ne hne⟩)))
  | feed => exact .inr (.inr (.inr (.inr ⟨rfl, rfl⟩)))
  | _ => exact absurd rfl hne

theorem Performs.writers_fphase (h : Performs s i t) (hne : t.fphase ≠ s.fphase) :
    (i = .start ∧ t.fphase = .fMsg) ∨ ((i = .abort ∨ i = .compress) ∧ t.fphase = .fIdle) ∨
    (i = .pad80 ∧ t.fphase = .fPadz) ∨ (i = .padlen ∧ t.fphase = .fLast) ∨ (i = .finish ∧ t.fphase = .fDone) := by
  cases h <;> simp_all

end

/-! ### A compression in progress -/

/-- The enabling conditions read four fields only. -/
theorem enabledIn_congr {s t : State} {i : Instr} (hc : t.cphase = s.cphase) (hf : t.fphase = s.fphase)
    (hr : t.rem = s.rem) (hfill : t.fill = s.fill) : enabledIn i t ↔ enabledIn i s := by
  cases i <;> simp [enabledIn, hc, hf, hr, hfill]

theorem enabledIn_tickReset {s : State} {i : Instr} : enabledIn i s.tickReset ↔ enabledIn i s :=
  enabledIn_congr rfl rfl rfl rfl

/-- What a compressor micro-operation leaves unchanged (R184). -/
theorem Performs.compressor_frame {s t : State} {i : Instr} (h : Performs s i t) (he : enabledIn i s)
    (hc : s.cphase ≠ .cIdle) :
    t.B = s.B ∧ t.LEN = s.LEN ∧ t.rem = s.rem ∧ t.fphase = s.fphase ∧ (s.cphase ≠ .cFeed → t.H = s.H) := by
  cases h with
  | sched | loadv | round => simp
  | feed hf => simp [hf]
  | pad80 | padz | padlen | finish => exact absurd he.1 hc
  | _ => simp_all [enabledIn]

end Sys2Proof.Machine

open Sys2Proof Sys2Proof.Machine

/-- Settles O51: a step resets, performs an instruction or waits, and none of these writes the ROM. -/
theorem romIsNeverWritten : Obligations.RomIsNeverWritten := by
  intro s t h
  have hs := stepsTo_of_step h
  exact ⟨hs.keeps_K, hs.keeps_H0⟩

/-- Settles O53, one register at a time from what each instruction does. -/
theorem writersOfEachRegister : Obligations.WritersOfEachRegister := by
  intro i s t h
  have hp := performs_of_exec h
  exact ⟨hp.writers_H, hp.writers_V, hp.writers_W, hp.writers_B, hp.writers_fill, hp.writers_LEN, hp.writers_rem,
    hp.writers_blkcnt, hp.writers_t, hp.writers_cphase, hp.writers_fphase, hp.keeps_K, hp.keeps_H0,
    hp.keeps_requests, hp.keeps_responses, hp.keeps_resetLine⟩

/-- Settles O41: a busy engine takes no request, so the step is the compressor's own micro-operation. -/
theorem nothingDisturbsACompression : Obligations.NothingDisturbsACompression := by
  intro s t hc hr h
  have hq := State.not_quiescent_of_running hc
  cases stepsTo_of_step h with
  | micro _ he hp => simpa using hp.compressor_frame (enabledIn_tickReset.2 he) hc
  | _ => simp_all

end

section
/-! SUPPORT. The invariant of reachable states: a reset establishes it and every instruction keeps it.  The last
theorems of the file settle the obligations about reset and the invariant. -/

namespace Sys2Proof.Machine

/-! ### The form of the invariant, phase by phase -/

/-- What the invariant says of the buffer and the index in each compressor phase (R42 I1, I4). -/
def State.CompressorInv (s : State) : Prop :=
  match s.cphase with
  | .cIdle => s.fill.val ≤ 63 ∧ s.t = 0#6
  | .cInit | .cFeed => s.fill.val = 64 ∧ s.t = 0#6
  | .cSched | .cRound => s.fill.val = 64

/-- What the invariant says of the counters in each formatter phase (R42 I2, I3, I5 and the linking clauses). -/
def State.FormatterInv (s : State) : Prop :=
  match s.fphase with
  | .fIdle | .fLast => s.rem = 0#64 ∧ (s.cphase = .cIdle → s.fill.val = 0)
  | .fMsg => s.rem.toNat ≤ s.LEN.toNat ∧ s.LEN.toNat < 2 ^ 61 ∧
      s.LEN.toNat - s.rem.toNat = 64 * s.blkcnt.toNat + s.fill.val
  | .fPadz => s.rem = 0#64
  | .fDone | .fFault => s.rem = 0#64 ∧ s.cphase = .cIdle ∧ s.fill.val = 0

/-- The fault phase tells the verdict on the ROM (R42 I6, R141). -/
def State.RomInv (s : State) : Prop := s.fphase = .fFault ↔ s.romOK = false

theorem State.coreInv_iff {s : State} : s.CoreInv ↔ s.CompressorInv ∧ s.FormatterInv ∧ s.RomInv := by
  unfold State.CompressorInv State.FormatterInv State.RomInv
  constructor
  · rintro ⟨⟨hbusy, hidle⟩, i2, i3, i4, i5, ⟨hfault, hrom⟩, l1, l2, l3, l4⟩
    refine ⟨?_, ?_, hrom⟩
    · cases hc : s.cphase <;> simp_all
    · cases hf : s.fphase <;> simp_all
  · rintro ⟨hc, hf, hrom⟩
    have i1 : s.I1 := by constructor <;> cases hp : s.cphase <;> simp_all
    have i2 : s.I2 := by intro _ h; rcases h with h | h | h <;> simp_all
    have i3 : s.I3 := by intro h; simp_all
    have i4 : s.I4 := by intro h; rcases h with h | h | h <;> simp_all
    have i5 : s.I5 := by intro h; rcases h with h | h <;> simp_all
    have i6 : s.fphase = .fFault → s.cphase = .cIdle := by intro h; simp_all
    refine ⟨i1, i2, i3, i4, i5, ⟨i6, hrom⟩, ?_, ?_, ?_, ?_⟩
    · intro h; rcases h with h | h | h <;> simp_all
    · intro h; simp_all
    · intro h; simp_all
    · intro h; simp_all

/-- The invariant reads the control registers and the ROM only. -/
theorem State.CoreInv.congr {s t : State} (h : s.CoreInv) (hfill : t.fill = s.fill) (hlen : t.LEN = s.LEN)
    (hrem : t.rem = s.rem) (hcnt : t.blkcnt = s.blkcnt) (ht : t.t = s.t) (hc : t.cphase = s.cphase)
    (hf : t.fphase = s.fphase) (hk : t.K = s.K) (hh : t.H0 = s.H0) : t.CoreInv := by
  have hrom := State.romOK_congr hk hh
  rw [State.coreInv_iff] at h ⊢
  simpa only [State.CompressorInv, State.FormatterInv, State.RomInv, hfill, hlen, hrem, hcnt, ht, hc, hf, hrom] using h

/-! ### Reset -/

theorem State.resetEvent_coreInv (s : State) : s.resetEvent.CoreInv := by
  have hrom : s.resetEvent.romOK = s.romOK := State.romOK_congr rfl rfl
  rw [State.coreInv_iff]
  refine ⟨⟨Nat.zero_le 63, rfl⟩, ?_, ?_⟩
  · cases h : s.romOK <;> simp [State.FormatterInv, h]
  · cases h : s.romOK <;> simp [State.RomInv, hrom, h]

theorem State.resetEvent_quiescent (s : State) : s.resetEvent.quiescent = true := by
  cases h : s.romOK <;> simp [State.quiescent, h]

theorem State.resetEvent_inv (s : State) : s.resetEvent.Inv :=
  ⟨s.resetEvent_coreInv, iff_of_true rfl s.resetEvent_quiescent⟩

theorem State.reset_romOK : State.reset.romOK = true := by decide

/-- The state after the first reset is one the reset event leaves (R41, R290). -/
theorem State.resetEvent_reset : State.reset.resetEvent = State.reset := by
  simp only [State.resetEvent, State.reset_romOK, if_true]
  rfl

/-! ### The compressor's part of the invariant -/

section
variable {s t : State} {i : Instr}

theorem State.CompressorInv.idle (h : s.CompressorInv) (hc : s.cphase = .cIdle) : s.fill.val ≤ 63 ∧ s.t = 0#6 := by
  simpa [State.CompressorInv, hc] using h

theorem State.CompressorInv.full (h : s.CompressorInv) (hc : s.cphase ≠ .cIdle) : s.fill.val = 64 := by
  cases hp : s.cphase <;> simp_all [State.CompressorInv]

/-- `append` leaves the buffer filling, or full with the compressor started (R158). -/
theorem State.appended_compressorInv {x : Byte} (hf : s.fill.val < 64) (hc : s.cphase = .cIdle) (ht : s.t = 0#6) :
    (s.appended x hf).CompressorInv := by
  unfold State.CompressorInv
  rw [State.appended_cphase, State.appended_t, State.appended_fill]
  by_cases h : s.fill.val + 1 = 64
  · simp [h]
  · simp [h, hc, ht]
    omega

theorem State.advance_compressorInv {n : CPhase} (hfill : s.fill.val = 64)
    (hc : s.cphase = .cSched ∧ n = .cInit ∨ s.cphase = .cRound ∧ n = .cFeed) : (s.advance n).CompressorInv := by
  unfold State.CompressorInv
  rcases s.advance_cases n with ⟨-, he⟩ | ⟨-, he⟩ <;> rcases hc with ⟨hc, rfl⟩ | ⟨hc, rfl⟩ <;> simp [he, hc, hfill]

theorem Performs.keeps_compressorInv (h : Performs s i t) (hs : s.CompressorInv) : t.CompressorInv := by
  cases h with
  | start ha | abort ha => simp [State.CompressorInv, ha.cphase, hs.idle ha.cphase]
  | compress | padlen => rfl
  | wrb ha hf => exact State.appended_compressorInv (s := { s with rem := s.rem - 1#64 }) hf ha.cphase (hs.idle ha.cphase).2
  | pad80 he hf => exact State.appended_compressorInv hf he.1 (hs.idle he.1).2
  | padz he hf => exact State.appended_compressorInv hf he.1 (hs.idle he.1).2
  | sched he =>
    have hfill := hs.full (by simp [he])
    exact State.advance_compressorInv hfill (.inl ⟨he, rfl⟩)
  | round he =>
    have hfill := hs.full (by simp [he])
    exact State.advance_compressorInv hfill (.inr ⟨he, rfl⟩)
  | loadv he => exact hs.full (by simp [he])
  | feed he =>
    obtain ⟨-, ht⟩ : s.fill.val = 64 ∧ s.t = 0#6 := by simpa [State.CompressorInv, he] using hs
    simp [State.CompressorInv, ht]
  | _ => exact hs

/-! ### The formatter's part of the invariant -/

/-- The transactions that the idle phases alone allow (R53). -/
theorem State.accepts.inIdlePhase (ha : s.accepts i) (hi : allowed i s.fphase = s.fphase.isIdle) : s.inIdlePhase :=
  ⟨ha.cphase, FPhase.isIdle_iff.1 (hi ▸ ha.2)⟩

theorem State.lt_of_not_lenTooLong (h : s.lenTooLong = false) : s.LEN.toNat < 2 ^ 61 := by
  have h3 : s.LEN.extractLsb' 61 3 = 0#3 := by simpa [State.lenTooLong] using h
  have := congrArg BitVec.toNat h3
  simp [Nat.shiftRight_eq_div_pow] at this
  omega

/-- In an idle phase nothing is buffered and nothing awaited (R42 I2). -/
theorem State.FormatterInv.idle (h : s.FormatterInv) (hp : s.inIdlePhase) : s.rem = 0#64 ∧ s.fill.val = 0 := by
  obtain ⟨hc, hf | hf⟩ := hp <;> simp_all [State.FormatterInv]

/-- What the formatter's part says is not touched while the compressor keeps running. -/
theorem State.FormatterInv.running (h : s.FormatterInv) (hs : s.cphase ≠ .cIdle) (ht : t.cphase ≠ .cIdle)
    (hf : t.fphase = s.fphase) (hrem : t.rem = s.rem) (hlen : t.LEN = s.LEN) (hcnt : t.blkcnt = s.blkcnt)
    (hfill : t.fill = s.fill) : t.FormatterInv := by
  unfold State.FormatterInv at h ⊢
  rw [hf, hrem, hlen, hcnt, hfill]
  cases hp : s.fphase <;> simp_all

theorem State.advance_running {n : CPhase} (hs : s.cphase ≠ .cIdle) (hn : n ≠ .cIdle) :
    (s.advance n).cphase ≠ .cIdle := by
  rcases s.advance_cases n with ⟨-, he⟩ | ⟨-, he⟩ <;> simpa [he]

/-- WRB accepts one more byte: `LEN - rem` and `fill` grow by one together (R42 I3). -/
theorem Performs.wrb_formatterInv {b : Byte} (hs : s.FormatterInv) (ha : s.awaitsByte) (hf : s.fill.val < 64) :
    ((State.appended { s with rem := s.rem - 1#64 } b hf).respond .ok 0#32).FormatterInv := by
  obtain ⟨-, hp, hr⟩ := ha
  have hpos : s.rem.toNat ≠ 0 := fun h => hr (BitVec.eq_of_toNat_eq h)
  have hsub : (s.rem - 1#64).toNat = s.rem.toNat - 1 := by bv_omega
  simp only [State.FormatterInv, hp] at hs
  simp [State.FormatterInv, hp, hsub]
  omega

/-- FEED counts the block and empties the buffer: `64 * blkcnt + fill` stays (R42 I3). -/
theorem Performs.feed_formatterInv (hs : s.FormatterInv) (hfill : s.fill.val = 64) (hc : s.cphase = .cFeed) :
    State.FormatterInv { s with H := feedWords s.H s.V, blkcnt := s.blkcnt + 1#64, fill := 0, cphase := .cIdle } := by
  unfold State.FormatterInv at hs ⊢
  cases hp : s.fphase with
  | fMsg =>
    simp only [hp, hfill] at hs
    have hcnt : (s.blkcnt + 1#64).toNat = s.blkcnt.toNat + 1 := by bv_omega
    simp [hcnt]
    omega
  | _ => simp_all

theorem Performs.keeps_formatterInv (h : Performs s i t) (hc : s.CompressorInv) (hs : s.FormatterInv) :
    t.FormatterInv := by
  cases h with
  | start ha hl => simpa [State.FormatterInv] using State.lt_of_not_lenTooLong hl
  | abort ha => simp [State.FormatterInv]
  | compress ha => simp [State.FormatterInv, hs.idle (ha.inIdlePhase rfl)]
  | wrlenl ha | wrlenh ha =>
    obtain ⟨-, hf | hf⟩ := ha.inIdlePhase rfl <;> simpa [State.FormatterInv, hf] using hs
  | wrb ha hf => exact Performs.wrb_formatterInv hs (State.accepts_wrb.1 ha) hf
  | sched he | round he =>
    exact hs.running (by simp [he]) (State.advance_running (by simp [he]) (by simp)) (by simp) (by simp) (by simp)
      (by simp) (by simp)
  | loadv he => exact hs.running (by simp [he]) (by simp) rfl rfl rfl rfl rfl
  | feed he => exact Performs.feed_formatterInv hs (hc.full (by simp [he])) he
  | pad80 he hf => simp [State.FormatterInv, he.2.2]
  | padz he hf => simpa [State.FormatterInv, he.2.1] using hs
  | padlen he => simpa [State.FormatterInv, he.2.1] using hs
  | finish he => simpa [State.FormatterInv, he.1, he.2] using hs
  | _ => exact hs

/-! ### The whole invariant -/

theorem State.accepts.ne_fFault (h : s.accepts i) (hi : i ≠ .rdstat) : s.fphase ≠ .fFault :=
  fun hf => hi (allowed_fFault.1 (hf ▸ h.2))

/-- No instruction enters or leaves the fault phase (R142). -/
theorem Performs.fFault_iff (h : Performs s i t) : t.fphase = .fFault ↔ s.fphase = .fFault := by
  cases h with
  | start ha | compress ha | abort ha => simp [ha.ne_fFault]
  | pad80 he | padlen he => simp [he.2.1]
  | finish he => simp [he.2]
  | _ => simp

theorem Performs.keeps_coreInv (h : Performs s i t) (hs : s.CoreInv) : t.CoreInv := by
  obtain ⟨hc, hf, hrom⟩ := State.coreInv_iff.1 hs
  have hrom' : t.RomInv := by
    rw [State.RomInv, State.romOK_congr h.keeps_K h.keeps_H0, h.fFault_iff]
    exact hrom
  exact State.coreInv_iff.2 ⟨h.keeps_compressorInv hc, h.keeps_formatterInv hc hf, hrom'⟩

/-- A transaction processed in a quiescent state answers (R84, R268). -/
theorem Performs.pending_of_quiescent (h : Performs s i t) (hq : s.quiescent = true) : t.pending ≠ none := by
  cases h with
  | busy _ hb => simp [hq] at hb
  | sched he | loadv he | round he | feed he => simp [State.quiescent, he] at hq
  | pad80 he | padz he | padlen he | finish he => simp [not_quiescent_of_enabledIn he] at hq
  | _ => simp

/-- A micro-operation leaves the response in progress (R84). -/
theorem Performs.pending_of_enabledIn (h : Performs s i t) (he : enabledIn i s) : t.pending = s.pending := by
  have hbusy := not_quiescent_of_enabledIn he
  cases h with
  | sched | loadv | round | feed | pad80 | padz | padlen | finish => simp
  | busy => rfl
  | faulted _ hq | outOfTurn _ hq => simp [hq] at hbusy
  | read ha => simp [ha.1] at hbusy
  | _ => exact he.elim

theorem State.CoreInv.deliver (h : s.CoreInv) : s.deliver.CoreInv :=
  h.congr (by simp) (by simp) (by simp) (by simp) (by simp) (by simp) (by simp) (by simp) (by simp)

/-- Delivery restores the port's part: what is not delivered waits for a busy engine (R84, R213). -/
theorem State.CoreInv.deliver_inv (h : s.CoreInv) (hp : s.quiescent = false → s.pending ≠ none) : s.deliver.Inv := by
  refine ⟨h.deliver, ?_⟩
  rw [State.deliver_pending, State.quiescent_deliver]
  cases hq : s.quiescent
  · simpa using hp hq
  · simp

theorem StepsTo.keeps_inv (h : StepsTo s t) (hs : s.Inv) : t.Inv := by
  obtain ⟨hcore, hport⟩ := hs
  cases h with
  | reset => exact State.resetEvent_inv _
  | @micro i u hr he hp =>
    have hu : u.CoreInv := hp.keeps_coreInv (hcore.congr rfl rfl rfl rfl rfl rfl rfl rfl rfl)
    refine hu.deliver_inv fun _ => ?_
    rw [hp.pending_of_enabledIn (enabledIn_tickReset.2 he)]
    have hbusy := not_quiescent_of_enabledIn he
    exact fun hn => by simp [hport.1 hn] at hbusy
  | @request q rest i u hr hq hreq hd hp =>
    have hu : u.CoreInv := hp.keeps_coreInv (hcore.congr rfl rfl rfl rfl rfl rfl rfl rfl rfl)
    exact hu.deliver_inv fun _ => hp.pending_of_quiescent hq
  | illegal hr hq hreq hd =>
    refine State.CoreInv.deliver_inv ?_ fun _ => by simp [State.refuseIllegal_eq]
    exact hcore.congr (by simp) (by simp) (by simp) (by simp) (by simp) (by simp) (by simp) (by simp) (by simp)
  | wait hr hq hreq =>
    exact ⟨hcore.congr rfl rfl rfl rfl rfl rfl rfl rfl rfl, hport⟩

end

end Sys2Proof.Machine

open Sys2Proof Sys2Proof.Machine

/-- Settles O47: the record itself, and `get` of the vectors made of the free draws. -/
theorem resetStateValues : Obligations.ResetStateValues :=
  ⟨rfl, rfl, rfl, rfl, rfl, rfl, rfl, rfl, rfl, rfl, rfl, Vector.get_ofFn _, Vector.get_ofFn _, Vector.get_ofFn _⟩

/-- Settles O48: the first reset leaves a state that the reset event leaves as it is. -/
theorem resetMeetsTheInvariant : Obligations.ResetMeetsTheInvariant :=
  ⟨State.resetEvent_reset ▸ State.reset.resetEvent_inv, State.resetEvent_inv⟩

/-- Settles O49: a reset establishes the invariant, every instruction keeps R42, and delivery the port's part. -/
theorem everyStepKeepsTheInvariant : Obligations.EveryStepKeepsTheInvariant :=
  fun _ _ hs h => (stepsTo_of_step h).keeps_inv hs

end

section
/-! SUPPORT. Noninterference: what an answer and a step do not depend on.  The last theorems of the file settle the
obligations about it. -/

namespace Sys2Proof.Machine

/-! ### Answers during a digest run -/

/-- The answer to each transaction while a byte is awaited (R226, R264): it reads `LEN`, `blkcnt` and `fphase` only. -/
def State.runAnswer (s : State) (i : Instr) : Response :=
  if refusedInRun i = true then ⟨.eSeq, 0#32⟩ else ⟨.ok, (s.readResult i).getD 0#32⟩

/-- The phase of a run allows exactly the transactions that R264 does not refuse. -/
theorem allowed_fMsg {i : Instr} (hi : isTransaction i = true) : allowed i .fMsg = !refusedInRun i := by
  cases i with
  | sched | loadv | round | feed | pad80 | padz | padlen | finish => cases hi
  | _ => rfl

theorem exec_awaiting {i : Instr} {s : State} (hi : isTransaction i = true) (ha : s.awaitsByte) (hf : s.fill.val ≤ 63) :
    ∃ t, exec i s = .next t ∧ t.pending = some (s.runAnswer i) := by
  have hq := State.quiescent_of_awaitsByte ha
  have hp : s.fphase = .fMsg := ha.2.1
  have hallowed := allowed_fMsg hi
  unfold State.runAnswer
  cases hr : refusedInRun i with
  | true =>
    exact ⟨_, exec_of_performs (.outOfTurn hi hq (by simp [hp]) (by simp [hp, hallowed, hr])), rfl⟩
  | false =>
    have hacc : s.accepts i := ⟨hq, by simp [hp, hallowed, hr]⟩
    cases i with
    | rdstat | rdlenl | rdlenh | rdcntl | rdcnth => exact ⟨_, exec_read hacc rfl, rfl⟩
    | abort => exact ⟨_, exec_of_performs (.abort hacc), rfl⟩
    | wrb b => exact ⟨_, exec_of_performs (.wrb hacc (by omega)), rfl⟩
    | sched | loadv | round | feed | pad80 | padz | padlen | finish => cases hi
    | _ => cases hr

theorem State.runAnswer_congr {s s' : State} (i : Instr) (hl : s'.LEN = s.LEN) (hc : s'.blkcnt = s.blkcnt)
    (hf : s'.fphase = s.fphase) : s'.runAnswer i = s.runAnswer i := by
  cases i <;> simp [State.runAnswer, State.readResult, State.status, refusedInRun, hl, hc, hf]

/-! ### Residues in the working variables and the schedule -/

/-- The state with other contents of the working variables and the schedule. -/
def State.withScratch (s : State) (v : Vector Word 8) (w : Vector Word 64) : State := { s with V := v, W := w }

/-- The second half of `sameButScratch`: `v` and `w` agree with `V` and `W` in what a running compressor will read. -/
def State.ScratchAgrees (s : State) (v : Vector Word 8) (w : Vector Word 64) : Prop :=
  match s.cphase with
  | .cIdle => True
  | .cSched => ∀ k : Fin 64, k.val < s.t.toNat → s.W.get k = w.get k
  | .cInit => s.W = w
  | .cRound => s.W = w ∧ s.V = v
  | .cFeed => s.V = v

theorem State.sameButScratch_withScratch {s : State} {v : Vector Word 8} {w : Vector Word 64} :
    s.sameButScratch (s.withScratch v w) ↔ s.ScratchAgrees v w := by
  unfold State.sameButScratch State.ScratchAgrees
  exact ⟨fun h => h.2, fun h => ⟨rfl, h⟩⟩

/-- States that differ in the scratch registers only are one state with its scratch registers replaced. -/
theorem State.sameButScratch.exists {s s' : State} (h : s.sameButScratch s') :
    ∃ v w, s' = s.withScratch v w ∧ s.ScratchAgrees v w := by
  have he : s' = s.withScratch s'.V s'.W := h.1.symm
  refine ⟨_, _, he, ?_⟩
  rw [he] at h
  exact State.sameButScratch_withScratch.1 h

section
variable {s t : State} {i : Instr} {v : Vector Word 8} {w : Vector Word 64}

theorem State.scratchAgrees_refl : s.ScratchAgrees s.V s.W := by
  unfold State.ScratchAgrees
  cases s.cphase <;> simp

theorem State.scratchAgrees_of_idle (hc : s.cphase = .cIdle) : s.ScratchAgrees v w := by
  simp [State.ScratchAgrees, hc]

theorem State.appended_withScratch {x : Byte} (hf : s.fill.val < 64) :
    (s.withScratch v w).appended x hf = (s.appended x hf).withScratch v w := by
  unfold State.appended
  split <;> rename_i h
  · rw [if_pos (show s.fill.val + 1 = 64 from h)]; rfl
  · rw [if_neg (show ¬ s.fill.val + 1 = 64 from h)]; rfl

theorem State.respond_withScratch {c : RspCode} {r : Word} :
    (s.withScratch v w).respond c r = (s.respond c r).withScratch v w := rfl

theorem State.refuseIllegal_withScratch : (s.withScratch v w).refuseIllegal = s.refuseIllegal.withScratch v w := by
  rw [State.refuseIllegal_eq, State.refuseIllegal_eq]
  rfl

/-- With the compressor idle no instruction reads the scratch registers. -/
theorem Performs.withScratch (h : Performs s i t) (hc : s.cphase = .cIdle) :
    Performs (s.withScratch v w) i (t.withScratch v w) := by
  cases h with
  | busy hi hq => exact .busy hi hq
  | faulted hi hq hf hne => exact .faulted hi hq hf hne
  | outOfTurn hi hq hf ha => exact .outOfTurn hi hq hf ha
  | tooLong ha hl => exact .tooLong ha hl
  | start ha hl => exact .start ha hl
  | abort ha => exact .abort ha
  | compress ha => exact .compress ha
  | read ha hw => exact .read ha (by cases i <;> exact hw)
  | wrlenl ha => exact .wrlenl ha
  | wrlenh ha => exact .wrlenh ha
  | @wrb b ha hf =>
    rw [← State.respond_withScratch, ← State.appended_withScratch (s := { s with rem := s.rem - 1#64 }) hf]
    exact .wrb (s := s.withScratch v w) ha hf
  | wrh ha => exact .wrh ha
  | wrblk ha => exact .wrblk ha
  | pad80 he hf =>
    have h := Performs.pad80 (s := s.withScratch v w) he hf
    rwa [State.appended_withScratch] at h
  | padz he hf =>
    have h := Performs.padz (s := s.withScratch v w) he hf
    rwa [State.appended_withScratch] at h
  | padlen he => exact .padlen he
  | finish he => exact .finish he
  | sched he | loadv he | round he | feed he => simp [hc] at he

/-- From an idle compressor an instruction leaves nothing in the scratch registers that will be read: the compressor is
idle, or is at the start of its schedule. -/
theorem Performs.scratchAgrees_of_idle (h : Performs s i t) (hc : s.cphase = .cIdle) : t.ScratchAgrees v w := by
  have happended {u : State} {x : Byte} {hf : u.fill.val < 64} (hu : u.cphase = .cIdle) :
      (u.appended x hf).ScratchAgrees v w := by
    unfold State.ScratchAgrees
    rw [State.appended_cphase, State.appended_t]
    by_cases h64 : u.fill.val + 1 = 64 <;> simp [h64, hu]
  cases h with
  | wrb | pad80 | padz => exact happended hc
  | sched he | loadv he | round he | feed he => simp [hc] at he
  | _ => simp [State.ScratchAgrees, hc]

/-! ### The compressor's own micro-operations -/

/-- SCHED reads only schedule Words already written (R185). -/
theorem schedWord_congr {b : Vector Byte 64} {w w' : Vector Word 64} {t : BitVec 6}
    (h : ∀ k : Fin 64, k.val < t.toNat → w.get k = w'.get k) : schedWord b w t = schedWord b w' t := by
  have hget (n : Nat) (hn : n < t.toNat) : w[n]'(hn.trans t.isLt) = w'[n]'(hn.trans t.isLt) :=
    h ⟨n, hn.trans t.isLt⟩ hn
  unfold schedWord
  split
  · rfl
  · dsimp only
    rw [hget (t.toNat - 2) (by omega), hget (t.toNat - 7) (by omega), hget (t.toNat - 15) (by omega),
      hget (t.toNat - 16) (by omega)]

/-- Writing one Word to both extends the agreement by that Word. -/
theorem set_agrees {w w' : Vector Word 64} {n : Nat} {x : Word} (hn : n < 64)
    (h : ∀ k : Fin 64, k.val < n → w.get k = w'.get k) (k : Fin 64) (hk : k.val < n + 1) :
    (w.set n x).get k = (w'.set n x).get k := by
  rw [Vector.get_eq_getElem, Vector.get_eq_getElem, Vector.getElem_set, Vector.getElem_set]
  split
  · rfl
  · exact h k (by omega)

theorem State.advance_withScratch {n : CPhase} : (s.withScratch v w).advance n = (s.advance n).withScratch v w := by
  have hlast : (s.withScratch v w).tIsLast = s.tIsLast := rfl
  unfold State.advance
  rw [hlast]
  split <;> rfl

/-- After SCHED the schedules agree in one Word more, at the last index in all 64. -/
theorem State.sched_scratchAgrees {x : Word} (he : s.cphase = .cSched)
    (hW : ∀ k : Fin 64, k.val < s.t.toNat → s.W.get k = w.get k) :
    (State.advance { s with W := s.W.set s.t.toNat x s.t.isLt } .cInit).ScratchAgrees v
      (w.set s.t.toNat x s.t.isLt) := by
  have hset := set_agrees (x := x) s.t.isLt hW
  rcases State.advance_cases { s with W := s.W.set s.t.toNat x s.t.isLt } .cInit with ⟨hlast, hadv⟩ | ⟨hlast, hadv⟩
  · have ht : s.t.toNat + 1 = 64 := by rw [show s.t = 63#6 from hlast]; rfl
    rw [hadv]
    exact Vector.ext fun k hk => hset ⟨k, hk⟩ (by simpa [ht] using hk)
  · have hsucc : (s.t + 1#6).toNat = s.t.toNat + 1 := by bv_omega
    rw [hadv]
    simpa [State.ScratchAgrees, he, hsucc] using hset

/-- Every instruction keeps the agreement, whatever else the scratch registers hold. -/
theorem Performs.exists_withScratch (h : Performs s i t) (hs : s.ScratchAgrees v w) :
    ∃ v' w', Performs (s.withScratch v w) i (t.withScratch v' w') ∧ t.ScratchAgrees v' w' := by
  by_cases hc : s.cphase = .cIdle
  · exact ⟨v, w, h.withScratch hc, h.scratchAgrees_of_idle hc⟩
  cases h with
  | busy hi hq => exact ⟨v, w, .busy hi hq, hs⟩
  | sched he =>
    have hW : ∀ k : Fin 64, k.val < s.t.toNat → s.W.get k = w.get k := by simpa [State.ScratchAgrees, he] using hs
    refine ⟨v, w.set s.t.toNat (schedWord s.B s.W s.t), ?_, State.sched_scratchAgrees he hW⟩
    rw [schedWord_congr hW, ← State.advance_withScratch]
    exact .sched (s := s.withScratch v w) he
  | loadv he =>
    have hW : s.W = w := by simpa [State.ScratchAgrees, he] using hs
    exact ⟨s.H, w, .loadv he, hW, rfl⟩
  | round he =>
    obtain ⟨rfl, rfl⟩ : s.W = w ∧ s.V = v := by simpa [State.ScratchAgrees, he] using hs
    exact ⟨_, _, .round he, State.scratchAgrees_refl⟩
  | feed he =>
    obtain rfl : s.V = v := by simpa [State.ScratchAgrees, he] using hs
    exact ⟨s.V, w, .feed he, trivial⟩
  | faulted _ hq | outOfTurn _ hq => exact absurd (State.cphase_of_quiescent hq) hc
  | tooLong ha | start ha | abort ha | compress ha | read ha | wrlenl ha | wrlenh ha | wrb ha | wrh ha | wrblk ha =>
    exact absurd ha.cphase hc
  | pad80 he | padz he | padlen he | finish he => exact absurd he.1 hc

/-! ### Steps -/

theorem State.deliver_withScratch : (s.withScratch v w).deliver = s.deliver.withScratch v w := by
  have hq : (s.withScratch v w).quiescent = s.quiescent := rfl
  have hp : (s.withScratch v w).pending = s.pending := rfl
  unfold State.deliver
  rw [hq, hp]
  split
  · split <;> rfl
  · rfl

theorem State.deliver_scratchAgrees : s.deliver.ScratchAgrees v w ↔ s.ScratchAgrees v w := by
  simp [State.ScratchAgrees]

theorem StepsTo.exists_withScratch (h : StepsTo s t) (hs : s.ScratchAgrees v w) :
    ∃ v' w', StepsTo (s.withScratch v w) (t.withScratch v' w') ∧ t.ScratchAgrees v' w' := by
  cases h with
  | reset hr => exact ⟨v, w, .reset hr, State.scratchAgrees_of_idle rfl⟩
  | micro hr he hp =>
    obtain ⟨v', w', hp', ha'⟩ := hp.exists_withScratch (s := s.tickReset) hs
    refine ⟨v', w', ?_, State.deliver_scratchAgrees.2 ha'⟩
    rw [← State.deliver_withScratch]
    exact .micro hr ((enabledIn_congr rfl rfl rfl rfl).2 he) hp'
  | @request q rest i u hr hq hreq hd hp =>
    obtain ⟨v', w', hp', ha'⟩ := hp.exists_withScratch (s := { s.tickReset with requests := rest }) hs
    refine ⟨v', w', ?_, State.deliver_scratchAgrees.2 ha'⟩
    rw [← State.deliver_withScratch]
    exact .request hr hq hreq hd hp'
  | @illegal q rest hr hq hreq hd =>
    refine ⟨v, w, ?_, ?_⟩
    · rw [← State.deliver_withScratch, ← State.refuseIllegal_withScratch]
      exact .illegal hr hq hreq hd
    · exact State.scratchAgrees_of_idle (by simp [State.cphase_of_quiescent hq])
  | wait hr hq hreq => exact ⟨v, w, .wait hr hq hreq, hs⟩

end

end Sys2Proof.Machine

open Sys2Proof Sys2Proof.Machine

/-- Settles O30: each answer is `runAnswer`, which reads none of the four registers. -/
theorem noIntermediateStateIsExposed : Obligations.NoIntermediateStateIsExposed := by
  intro i s s' hi ha hf he
  have ha' : s'.awaitsByte := by rw [he]; exact ha
  have hf' : s'.fill.val ≤ 63 := by rw [he]; exact hf
  obtain ⟨t, ht, hp⟩ := exec_awaiting hi ha hf
  obtain ⟨t', ht', hp'⟩ := exec_awaiting hi ha' hf'
  have hanswer : s'.runAnswer i = s.runAnswer i := by rw [he]; exact State.runAnswer_congr i rfl rfl rfl
  exact ⟨t, t', ht, ht', by rw [hp, hp', hanswer]⟩

/-- Settles O57: the next state of `s'` is that of `s` with other residues, by the agreement every instruction
keeps. -/
theorem scratchRegistersNeverMatter : Obligations.ScratchRegistersNeverMatter := by
  intro s s' t hs h
  obtain ⟨v, w, rfl, ha⟩ := hs.exists
  obtain ⟨v', w', ht, ha'⟩ := (stepsTo_of_step h).exists_withScratch ha
  exact ⟨t.withScratch v' w', step_of_stepsTo ht, State.sameButScratch_withScratch.2 ha'⟩

end

section
/-! SUPPORT. The decoder and the read transactions against the register map: which request words are malformed, and
what a read shows at its address.  The last theorems of the file settle the obligations of the host's register file. -/

namespace Sys2Proof

/-! ### The six defects, read from the fields of a request word -/

/-- `top` is compared field by field (R90). -/
theorem we_append_addr_eq_iff {w : BitVec 1} {a : BitVec 7} {x : BitVec 8} :
    w ++ a = x ↔ w = x.extractLsb' 7 1 ∧ a = x.extractLsb' 0 7 := by
  constructor
  · rintro rfl
    exact ⟨BitVec.extractLsb'_append_eq_left.symm, BitVec.extractLsb'_append_eq_right.symm⟩
  · rintro ⟨rfl, rfl⟩
    exact (BitVec.extractLsb'_append_extractLsb'_eq_extractLsb' (Nat.zero_add 7).symm).trans
      BitVec.extractLsb'_eq_self

/-- Bit 39 of a request is its write flag (R80). -/
theorem getLsbD_eq_we (q : BitVec 40) : q.getLsbD 39 = decide (Request.we q = 1#1) :=
  BitVec.getLsbD_eq_extractLsb' q 39

/-- Bits 33:32 of a request are the low bits of its address (R63). -/
theorem extractLsb'_eq_addr_low (q : BitVec 40) : q.extractLsb' 32 2 = (Request.addr q).extractLsb' 0 2 := by
  unfold Request.addr
  ext k hk
  simp [show k < 7 by omega]

/-- Bits 31:8 of a request are the high bits of its data (R88). -/
theorem extractLsb'_eq_wdata_high (q : BitVec 40) : q.extractLsb' 8 24 = (Request.wdata q).extractLsb' 8 24 :=
  (BitVec.extractLsb'_extractLsb'_of_le (by decide)).symm

section
variable {w : BitVec 1} {a : BitVec 7} {d : Word}

@[simp] theorem misaligned_requestWord :
    Request.misaligned (requestWord w a d) = decide (a.extractLsb' 0 2 ≠ 0#2) := by
  rw [Request.misaligned, extractLsb'_eq_addr_low, addr_requestWord]

@[simp] theorem reservedAddress_requestWord : Request.reservedAddress (requestWord w a d) = decide (a = 0x1C#7) := by
  rw [Request.reservedAddress, ← Request.addr, addr_requestWord]

@[simp] theorem readsWriteOnly_requestWord :
    Request.readsWriteOnly (requestWord w a d) =
      (!decide (w = 1#1) && (decide (a = 0x00#7) || decide (a = 0x10#7))) := by
  rw [Request.readsWriteOnly, getLsbD_eq_we, ← Request.addr, we_requestWord, addr_requestWord]

@[simp] theorem writesReadOnly_requestWord :
    Request.writesReadOnly (requestWord w a d) =
      (decide (w = 1#1) && (decide (a = 0x04#7) || decide (a = 0x14#7) || decide (a = 0x18#7))) := by
  rw [Request.writesReadOnly, getLsbD_eq_we, ← Request.addr, we_requestWord, addr_requestWord]

@[simp] theorem badCommand_requestWord :
    Request.badCommand (requestWord w a d) =
      (decide (w = 1#1) && decide (a = 0x00#7) && decide (d ≠ 1#32) && decide (d ≠ 2#32) &&
        decide (d ≠ 3#32)) := by
  rw [Request.badCommand, getLsbD_eq_we, ← Request.addr, ← Request.wdata, we_requestWord, addr_requestWord,
    wdata_requestWord]

@[simp] theorem badByte_requestWord :
    Request.badByte (requestWord w a d) =
      (decide (w = 1#1) && decide (a = 0x10#7) && decide (d.extractLsb' 8 24 ≠ 0#24)) := by
  rw [Request.badByte, getLsbD_eq_we, extractLsb'_eq_wdata_high, ← Request.addr, we_requestWord, addr_requestWord,
    wdata_requestWord]

/-- A malformed request has one of the six defects (R66). -/
theorem wellFormed_eq_false_iff {q : BitVec 40} :
    Request.wellFormed q = false ↔ Request.misaligned q ∨ Request.reservedAddress q ∨ Request.readsWriteOnly q ∨
      Request.writesReadOnly q ∨ Request.badCommand q ∨ Request.badByte q := by
  simp only [Request.wellFormed, Bool.and_eq_false_iff, Bool.not_eq_false', or_assoc]

/-! ### The register map and the decision list -/

/-- The aligned addresses below `HASH0`, that of the reserved register among them (R52). -/
def controlAddresses : List (BitVec 7) := [0x00#7, 0x04#7, 0x08#7, 0x0C#7, 0x10#7, 0x14#7, 0x18#7, 0x1C#7]

/-- Every aligned address is below `HASH0` or belongs to `HASHi` or `BLKi` (R52). -/
theorem aligned_cases (ha : a.extractLsb' 0 2 = 0#2) :
    a ∈ controlAddresses ∨ a ∉ controlAddresses ∧ (a.extractLsb' 5 2 = 0b01#2 ∨ a.extractLsb' 6 1 = 1#1) := by
  revert a
  decide

/-- At a control address the word of each direction is decided by its data alone. -/
theorem decode_eq_none_iff_of_control (ha : a ∈ controlAddresses) :
    decode (requestWord w a d) = none ↔ Request.wellFormed (requestWord w a d) = false := by
  rw [wellFormed_eq_false_iff]
  simp only [controlAddresses, List.mem_cons, List.not_mem_nil, or_false] at ha
  obtain rfl | rfl := BitVec.eq_zero_or_eq_one w <;>
    rcases ha with rfl | rfl | rfl | rfl | rfl | rfl | rfl | rfl <;>
      simp [decode, ite_eq_iff, and_assoc]

/-- The words of `HASHi` and `BLKi` decode in both directions, and none of them is malformed. -/
theorem decode_eq_none_iff_of_array (ha : a.extractLsb' 0 2 = 0#2) (hc : a ∉ controlAddresses)
    (h : a.extractLsb' 5 2 = 0b01#2 ∨ a.extractLsb' 6 1 = 1#1) :
    decode (requestWord w a d) = none ↔ Request.wellFormed (requestWord w a d) = false := by
  rw [wellFormed_eq_false_iff]
  simp only [controlAddresses, List.mem_cons, List.not_mem_nil, or_false, not_or] at hc
  obtain rfl | rfl := BitVec.eq_zero_or_eq_one w <;> rcases h with h | h <;>
    simp [decode, we_append_addr_eq_iff, ite_eq_iff, ha, hc, h]

/-- On a word built from its fields the decision list of R90 and the defects of R66 agree. -/
theorem decode_eq_none_iff :
    decode (requestWord w a d) = none ↔ Request.wellFormed (requestWord w a d) = false := by
  by_cases ha : a.extractLsb' 0 2 = 0#2
  · obtain hc | ⟨hc, h⟩ := aligned_cases ha
    · exact decode_eq_none_iff_of_control hc
    · exact decode_eq_none_iff_of_array ha hc h
  · simp [decode, wellFormed_eq_false_iff, ha]

end

end Sys2Proof

namespace Sys2Proof.Machine

/-! ### The register file the reads show -/

/-- The request word of a read carries its address (R52). -/
theorem encode_read {i : Instr} {a : BitVec 7} (h : readAddress i = some a) : encode i = .req (readWord a) := by
  cases i with
  | rdstat | rdlenl | rdlenh | rdcntl | rdcnth | rdh | rdblk => cases h; rfl
  | _ => cases h

theorem FPhase.isWorking_of_isIdle {p : FPhase} (h : p.isIdle = true) : p.isWorking = true :=
  FPhase.isWorking_iff.2 ((FPhase.isIdle_iff.1 h).imp_right .inr)

/-- The access table allows every read in the idle phases (R53). -/
theorem allowed_read {i : Instr} {a : BitVec 7} {p : FPhase} (h : readAddress i = some a) (hp : p.isIdle = true) :
    allowed i p = true := by
  cases i with
  | rdstat => rfl
  | rdh | rdblk => exact hp
  | rdlenl | rdlenh | rdcntl | rdcnth => exact FPhase.isWorking_of_isIdle hp
  | _ => cases h

theorem accepts_read {s : State} {i : Instr} {a : BitVec 7} (hs : s.inIdlePhase) (h : readAddress i = some a) :
    s.accepts i :=
  ⟨State.quiescent_iff.2 (hs.imp_right (Or.imp_right .inl)), allowed_read h (FPhase.isIdle_iff.2 hs.2)⟩

theorem hostReg_hashAddr (s : State) (i : Fin 8) : s.hostReg (hashAddr i) = some (s.H.get i) := by
  fin_cases i <;> rfl

theorem hostReg_blockAddr (s : State) (i : Fin 16) : s.hostReg (blockAddr i) = some (blockWord s.B i) := by
  fin_cases i <;> rfl

/-- What the register map shows at a read's address is the word the read answers (R52). -/
theorem exists_hostReg {s : State} {i : Instr} {a : BitVec 7} (h : readAddress i = some a) :
    ∃ v, s.hostReg a = some v ∧ s.readResult i = some v := by
  cases i with
  | rdh i => cases h; exact ⟨_, hostReg_hashAddr s i, rfl⟩
  | rdblk i => cases h; exact ⟨_, hostReg_blockAddr s i, rfl⟩
  | rdstat | rdlenl | rdlenh | rdcntl | rdcnth => cases h; exact ⟨_, rfl, rfl⟩
  | _ => cases h

end Sys2Proof.Machine

open Sys2Proof Sys2Proof.Machine

/-- Settles O4, by the fields of the word: the register map splits the addresses. -/
theorem illegalExactlyWhenMalformed : Obligations.IllegalExactlyWhenMalformed := by
  intro q
  rw [← requestWord_fields q]
  exact decode_eq_none_iff

/-- Settles O22: the word a read answers is the one the register map shows at its address. -/
theorem readsFollowTheRegisterMap : Obligations.ReadsFollowTheRegisterMap := by
  intro s i a hs ha
  obtain ⟨v, hv, hw⟩ := exists_hostReg (s := s) ha
  exact ⟨encode_read ha, v, hv, exec_read (accepts_read hs ha) hw⟩

end

section
/-! SUPPORT. The encoding in both directions: the decoder inverts the encoder, and it agrees with the opcode table.  The
last theorems of the section settle the obligations about encoding and decoding. -/

namespace Sys2Proof

/-! ### The request word a host writes for the instruction a word decodes to -/

/-- The request with the ignored write data of a read cleared (R81). -/
def Request.canonical (q : BitVec 40) : BitVec 40 :=
  if Request.we q = 0#1 then readWord (Request.addr q) else q

section
variable {a a' : BitVec 7} {d d' : Word} {i : Instr}

@[simp] theorem canonical_read : Request.canonical (requestWord 0#1 a d) = readWord a := by
  simp [Request.canonical]

@[simp] theorem canonical_write : Request.canonical (requestWord 1#1 a d) = writeWord a d := by
  simp [Request.canonical, writeWord]

/-- A request word is a read or a write (R80). -/
theorem exists_read_or_write (q : BitVec 40) :
    (∃ a d, q = requestWord 0#1 a d) ∨ ∃ a d, q = requestWord 1#1 a d := by
  rcases BitVec.eq_zero_or_eq_one (Request.we q) with h | h
  · exact .inl ⟨_, _, h ▸ (requestWord_fields q).symm⟩
  · exact .inr ⟨_, _, h ▸ (requestWord_fields q).symm⟩

/-- Decoding a read looks at the address alone (R81). -/
theorem decode_read : decode (requestWord 0#1 a d) = decode (readWord a) := by
  simp [decode, readWord, we_append_addr_eq_iff, hashIndex_eq, blockIndex_eq]

theorem writeWord_inj : writeWord a d = writeWord a' d' ↔ a = a' ∧ d = d' := by
  refine ⟨fun h => ⟨?_, ?_⟩, fun ⟨ha, hd⟩ => ha ▸ hd ▸ rfl⟩
  · simpa [writeWord] using congrArg Request.addr h
  · simpa [writeWord] using congrArg Request.wdata h

/-! ### The addresses of the two register arrays -/

theorem exists_hashAddr (h : a &&& 0x63#7 = 0x20#7) : ∃ k, a = hashAddr k := by
  revert a
  decide

theorem exists_blockAddr (h : a &&& 0x43#7 = 0x40#7) : ∃ k, a = blockAddr k := by
  revert a
  decide

/-- The addresses that a write must not have (R52, R63), and the registers that can be written. -/
theorem write_address_cases (a : BitVec 7) :
    (a.extractLsb' 0 2 ≠ 0#2 ∨ a = 0x04#7 ∨ a = 0x14#7 ∨ a = 0x18#7 ∨ a = 0x1C#7) ∨
      a = 0x00#7 ∨ a = 0x08#7 ∨ a = 0x0C#7 ∨ a = 0x10#7 ∨ (∃ k, a = hashAddr k) ∨ ∃ k, a = blockAddr k := by
  revert a
  decide

/-! ### The writes, register by register -/

/-- A write of `CMD` (R87). -/
theorem decode_write_cmd : decode (writeWord 0x00#7 d) =
    if d = 1#32 then some .start else if d = 2#32 then some .abort else if d = 3#32 then some .compress else none := by
  simp [decode, writeWord]

theorem decode_write_lenLow : decode (writeWord 0x08#7 d) = some (.wrlenl d) := by simp [decode, writeWord]

theorem decode_write_lenHigh : decode (writeWord 0x0C#7 d) = some (.wrlenh d) := by simp [decode, writeWord]

/-- A write of `DIN` (R88). -/
theorem decode_write_din : decode (writeWord 0x10#7 d) =
    if d.extractLsb' 8 24 = 0#24 then some (.wrb (d.extractLsb' 0 8)) else none := by
  simp [decode, writeWord]

theorem decode_write_hash (k : Fin 8) : decode (writeWord (hashAddr k) d) = some (.wrh k d) := by
  obtain ⟨hlow, hhigh, hk, hc⟩ : (hashAddr k).extractLsb' 0 2 = 0#2 ∧ (hashAddr k).extractLsb' 5 2 = 0b01#2 ∧
      ((hashAddr k).extractLsb' 2 3).toFin = k ∧ hashAddr k ∉ controlAddresses := by
    revert k
    decide
  simp only [controlAddresses, List.mem_cons, List.not_mem_nil, or_false, not_or] at hc
  simpa [decode, writeWord, we_append_addr_eq_iff, hashIndex_eq, hlow, hhigh, hc] using hk

theorem decode_write_block (k : Fin 16) : decode (writeWord (blockAddr k) d) = some (.wrblk k d) := by
  obtain ⟨hlow, hhash, hhigh, hk, hc⟩ : (blockAddr k).extractLsb' 0 2 = 0#2 ∧
      (blockAddr k).extractLsb' 5 2 ≠ 0b01#2 ∧ (blockAddr k).extractLsb' 6 1 = 1#1 ∧
      ((blockAddr k).extractLsb' 2 4).toFin = k ∧ blockAddr k ∉ controlAddresses := by
    revert k
    decide
  simp only [controlAddresses, List.mem_cons, List.not_mem_nil, or_false, not_or] at hc
  simpa [decode, writeWord, we_append_addr_eq_iff, blockIndex_eq, hlow, hhash, hhigh, hc] using hk

/-- The addresses a write must not have: unaligned, read-only or reserved (R52, R63). -/
theorem decode_write_illegal (h : a.extractLsb' 0 2 ≠ 0#2 ∨ a = 0x04#7 ∨ a = 0x14#7 ∨ a = 0x18#7 ∨ a = 0x1C#7) :
    decode (writeWord a d) = none := by
  obtain h | h := h
  · simp [decode, writeWord, h]
  · obtain rfl | rfl | rfl | rfl := h <;> simp [decode, writeWord]

/-! ### Decoding after encoding -/

/-- The low byte of the data that carries a byte, and the rest of the data (R88). -/
theorem wdata_fields_of_byte (b : Byte) :
    (b.setWidth 32).extractLsb' 0 8 = b ∧ (b.setWidth 32).extractLsb' 8 24 = 0#24 := by
  revert b
  decide

theorem decodeEncoded_encode (i : Instr) : decodeEncoded (encode i) = some i := by
  cases i with
  | wrlenl v => exact decode_write_lenLow
  | wrlenh v => exact decode_write_lenHigh
  | wrb b =>
    obtain ⟨hlow, hhigh⟩ := wdata_fields_of_byte b
    exact decode_write_din.trans (by rw [if_pos hhigh, hlow])
  | rdh k | rdblk k =>
    revert k
    decide
  | wrh k v => exact decode_write_hash k
  | wrblk k v => exact decode_write_block k
  | _ => decide

/-! ### Encoding after decoding -/

theorem encode_of_decode_read (h : decode (readWord a) = some i) : encode i = .req (readWord a) := by
  have all : ∀ a : BitVec 7, ∀ i ∈ decode (readWord a), encode i = .req (readWord a) := by decide
  exact all a i h

theorem encode_of_decode_write_cmd (h : decode (writeWord 0x00#7 d) = some i) :
    encode i = .req (writeWord 0x00#7 d) := by
  rw [decode_write_cmd] at h
  split_ifs at h with hd hd hd <;> cases h <;> cases hd <;> rfl

/-- Data with no bit above the low byte is that byte (R88). -/
theorem wdata_of_byte (h : d.extractLsb' 8 24 = 0#24) : (d.extractLsb' 0 8).setWidth 32 = d := by
  have hn := congrArg BitVec.toNat h
  apply BitVec.eq_of_toNat_eq
  rw [BitVec.toNat_setWidth]
  simp only [BitVec.extractLsb'_toNat, BitVec.toNat_ofNat] at hn ⊢
  omega

theorem encode_of_decode_write_din (h : decode (writeWord 0x10#7 d) = some i) :
    encode i = .req (writeWord 0x10#7 d) := by
  rw [decode_write_din] at h
  split_ifs at h with hd
  cases h
  rw [encode, wdata_of_byte hd]

/-- A register that can be written keeps all its data in the instruction (R81). -/
theorem encode_of_decode_write (h : decode (writeWord a d) = some i) : encode i = .req (writeWord a d) := by
  obtain ha | rfl | rfl | rfl | rfl | ⟨k, rfl⟩ | ⟨k, rfl⟩ := write_address_cases a
  · simp [decode_write_illegal ha] at h
  · exact encode_of_decode_write_cmd h
  · cases decode_write_lenLow.symm.trans h
    rfl
  · cases decode_write_lenHigh.symm.trans h
    rfl
  · exact encode_of_decode_write_din h
  · cases (decode_write_hash k).symm.trans h
    rfl
  · cases (decode_write_block k).symm.trans h
    rfl

theorem decode_canonical (q : BitVec 40) : decode (Request.canonical q) = decode q := by
  obtain ⟨a, d, rfl⟩ | ⟨a, d, rfl⟩ := exists_read_or_write q
  · rw [canonical_read, decode_read]
  · rw [canonical_write, writeWord]

/-- A request decodes to the instruction whose encoding it is, up to the ignored data of a read (R81, R90). -/
theorem decode_eq_some_iff {q : BitVec 40} : decode q = some i ↔ encode i = .req (Request.canonical q) := by
  rw [← decode_canonical]
  constructor
  · obtain ⟨a, d, rfl⟩ | ⟨a, d, rfl⟩ := exists_read_or_write q
    · rw [canonical_read]
      exact encode_of_decode_read
    · rw [canonical_write]
      exact encode_of_decode_write
  · intro h
    have hd := decodeEncoded_encode i
    rwa [h] at hd

/-! ### The rows of the request words -/

/-- Every row selects the encoding of its own instruction (R98). -/
theorem tableRow_selects_encode (i : Instr) : (tableRow i).selects (encode i) = true := by
  cases i with
  | wrlenl v => exact Laws.TableRow.wrlenl v
  | wrlenh v => exact Laws.TableRow.wrlenh v
  | wrb b => exact Laws.TableRow.wrb b
  | rdh k => exact Laws.TableRow.rdh k
  | wrh k v => exact Laws.TableRow.wrh k v
  | rdblk k => exact Laws.TableRow.rdblk k
  | wrblk k v => exact Laws.TableRow.wrblk k v
  | _ => rfl

end

section
variable {q m p : BitVec 40} {i : Instr}

theorem isTransaction_of_encode (h : encode i = .req q) : Machine.isTransaction i = true := by
  cases i with
  | sched | loadv | round | feed | pad80 | padz | padlen | finish => cases h
  | _ => rfl

/-- The bits a row fixes are compared field by field (R98). -/
theorem request_and_eq_iff :
    q &&& m = p ↔ Request.we q &&& Request.we m = Request.we p ∧ Request.addr q &&& Request.addr m = Request.addr p ∧
      Request.wdata q &&& Request.wdata m = Request.wdata p := by
  rw [← requestWord_fields q, ← requestWord_fields m, ← requestWord_fields p, requestWord_and]
  constructor
  · intro h
    exact ⟨by simpa using congrArg Request.we h, by simpa using congrArg Request.addr h,
      by simpa using congrArg Request.wdata h⟩
  · rintro ⟨hw, ha, hd⟩
    simp_all

/-- The mask of a read row leaves out the write data (R81). -/
theorem wdata_mask_of_read (h : tableRow i = .req p m) (hp : Request.we p = 0#1) : Request.wdata m = 0#32 := by
  cases i with
  | rdstat | rdlenl | rdlenh | rdcntl | rdcnth | rdh | rdblk =>
    cases h
    rfl
  | start | abort | compress | wrlenl | wrlenh | wrb | wrh | wrblk =>
    cases h
    exact absurd hp (by decide)
  | sched | loadv | round | feed | pad80 | padz | padlen | finish => cases h

/-- A row selects a request whatever the ignored data of a read (R81). -/
theorem selects_canonical : (tableRow i).selects (.req (Request.canonical q)) = (tableRow i).selects (.req q) := by
  obtain ⟨a, d, rfl⟩ | ⟨a, d, rfl⟩ := exists_read_or_write q
  · rw [canonical_read]
    cases hr : tableRow i with
    | uop => rfl
    | req p m =>
      obtain hp | hp := BitVec.eq_zero_or_eq_one (Request.we p)
      · simp [Row.selects, request_and_eq_iff, readWord, wdata_mask_of_read hr hp]
      · simp [Row.selects, request_and_eq_iff, readWord, hp]
  · rw [canonical_write, writeWord]

/-- The row of the instruction a request decodes to selects the request (R91). -/
theorem selects_of_decode (h : decode q = some i) : (tableRow i).selects (.req q) = true := by
  have he := tableRow_selects_encode i
  rwa [decode_eq_some_iff.1 h, selects_canonical] at he

/-- Every request row fixes the direction, and of the other fields what is in its mask. -/
theorem fields_of_masked (h : q &&& m = p) (hm : Request.we m = 1#1) :
    Request.we q = Request.we p ∧ Request.addr q &&& Request.addr m = Request.addr p ∧
      Request.wdata q &&& Request.wdata m = Request.wdata p := by
  obtain ⟨hw, ha, hd⟩ := request_and_eq_iff.1 h
  exact ⟨by rw [← hw, hm]; exact BitVec.and_allOnes.symm, ha, hd⟩

theorem wdata_high_of_masked {d : Word} (h : d &&& 0xFFFFFF00#32 = 0#32) : d.extractLsb' 8 24 = 0#24 := by
  have hk := congrArg (BitVec.extractLsb' 8 24) h
  rw [BitVec.extractLsb'_and] at hk
  exact BitVec.and_allOnes.symm.trans hk

theorem canonical_of_read (hw : Request.we q = 0#1) : Request.canonical q = readWord (Request.addr q) := if_pos hw

theorem canonical_of_write (hw : Request.we q = 1#1) :
    Request.canonical q = writeWord (Request.addr q) (Request.wdata q) := by
  rw [writeWord, ← hw, requestWord_fields]
  simp [Request.canonical, hw]

/-- What a read row that fixes the whole address selects. -/
theorem canonical_of_readRow (h : q &&& 0xff00000000#40 = p) (hp : Request.we p = 0#1) :
    Request.canonical q = readWord (Request.addr p) := by
  obtain ⟨hw, ha, -⟩ := fields_of_masked h rfl
  rw [canonical_of_read (hw.trans hp), ← ha]
  exact congrArg readWord BitVec.and_allOnes.symm

/-- What a write row that fixes the whole address and no data selects. -/
theorem canonical_of_writeRow (h : q &&& 0xff00000000#40 = p) (hp : Request.we p = 1#1) :
    Request.canonical q = writeWord (Request.addr p) (Request.wdata q) := by
  obtain ⟨hw, ha, -⟩ := fields_of_masked h rfl
  rw [canonical_of_write (hw.trans hp), ← ha]
  exact congrArg (writeWord · _) BitVec.and_allOnes.symm

/-- What a row selects is, but for the ignored data of a read, the encoding of an instruction of that row. -/
theorem exists_encode_of_selects (h : (tableRow i).selects (.req q) = true) :
    ∃ j, tableRow j = tableRow i ∧ encode j = .req (Request.canonical q) := by
  cases i with
  | start | abort | compress =>
    obtain rfl : q = _ := BitVec.and_allOnes.symm.trans (of_decide_eq_true h)
    exact ⟨_, rfl, rfl⟩
  | rdstat | rdlenl | rdlenh | rdcntl | rdcnth =>
    exact ⟨_, rfl, congrArg Encoded.req (canonical_of_readRow (of_decide_eq_true h) rfl).symm⟩
  | wrlenl =>
    exact ⟨.wrlenl (Request.wdata q), rfl,
      congrArg Encoded.req (canonical_of_writeRow (of_decide_eq_true h) rfl).symm⟩
  | wrlenh =>
    exact ⟨.wrlenh (Request.wdata q), rfl,
      congrArg Encoded.req (canonical_of_writeRow (of_decide_eq_true h) rfl).symm⟩
  | wrb =>
    obtain ⟨hw, ha, hd⟩ := fields_of_masked (of_decide_eq_true h) rfl
    refine ⟨.wrb ((Request.wdata q).extractLsb' 0 8), rfl, ?_⟩
    rw [canonical_of_write hw, BitVec.and_allOnes.symm.trans ha, encode, wdata_of_byte (wdata_high_of_masked hd)]
    rfl
  | rdh =>
    obtain ⟨hw, ha, -⟩ := fields_of_masked (of_decide_eq_true h) rfl
    obtain ⟨k, hk⟩ := exists_hashAddr ha
    exact ⟨.rdh k, rfl, by rw [canonical_of_read hw, hk, encode]⟩
  | wrh =>
    obtain ⟨hw, ha, -⟩ := fields_of_masked (of_decide_eq_true h) rfl
    obtain ⟨k, hk⟩ := exists_hashAddr ha
    exact ⟨.wrh k (Request.wdata q), rfl, by rw [canonical_of_write hw, hk, encode]⟩
  | rdblk =>
    obtain ⟨hw, ha, -⟩ := fields_of_masked (of_decide_eq_true h) rfl
    obtain ⟨k, hk⟩ := exists_blockAddr ha
    exact ⟨.rdblk k, rfl, by rw [canonical_of_read hw, hk, encode]⟩
  | wrblk =>
    obtain ⟨hw, ha, -⟩ := fields_of_masked (of_decide_eq_true h) rfl
    obtain ⟨k, hk⟩ := exists_blockAddr ha
    exact ⟨.wrblk k (Request.wdata q), rfl, by rw [canonical_of_write hw, hk, encode]⟩
  | sched | loadv | round | feed | pad80 | padz | padlen | finish => cases h

/-- A request that a row selects decodes to an instruction of that row (R91). -/
theorem decode_of_selects (h : (tableRow i).selects (.req q) = true) :
    ∃ j, decode q = some j ∧ tableRow j = tableRow i := by
  obtain ⟨j, hrow, he⟩ := exists_encode_of_selects h
  exact ⟨j, decode_eq_some_iff.2 he, hrow⟩

end

/-! ### The rows of the selectors -/

/-- The selector and the two tests choose a micro-operation exactly when its row selects them (R92). -/
theorem decodeUop_eq_some_iff {u : BitVec 6} {r f : Bool} {i : Instr} :
    decodeUop u r f = some i ↔ (tableRow i).selects (.uop u r f) = true := by
  have micro : ∀ (u : BitVec 6) (r f : Bool), ∀ i ∈ decodeUop u r f, Machine.isTransaction i = false := by decide
  cases i with
  | sched | loadv | round | feed | pad80 | padz | padlen | finish =>
    revert u r f
    decide
  | _ => exact iff_of_false (fun h => Bool.noConfusion (micro u r f _ h)) Bool.false_ne_true

end Sys2Proof

open Sys2Proof Sys2Proof.Machine

/-- Settles O1, by cases on the instruction: the data of a write comes back whole, an array index from its address. -/
theorem decodeEncodeRoundTrip : Obligations.DecodeEncodeRoundTrip := decodeEncoded_encode

/-- Settles O2: the encoding is the request with the ignored data of a read cleared. -/
theorem encodeDecodeRoundTrip : Obligations.EncodeDecodeRoundTrip := by
  intro q i h
  have he := decode_eq_some_iff.1 h
  obtain ⟨a, d, rfl⟩ | ⟨a, d, rfl⟩ := exists_read_or_write q
  · exact .inr ⟨we_requestWord .., by rwa [addr_requestWord, ← canonical_read]⟩
  · exact .inl ⟨we_requestWord .., by rwa [canonical_write] at he⟩

/-- Settles O3: a read decodes as its address does, and two writes with one encoding are one word. -/
theorem writeDataIgnoredOnReadsOnly : Obligations.WriteDataIgnoredOnReadsOnly := by
  refine ⟨fun a d d' => ?_, fun a d d' s => ?_, fun i p m => wdata_mask_of_read, fun a a' d d' i h h' => ?_⟩
  · rw [decode_read, decode_read]
  · simp only [execRequest, decode_read]
  · have he := encode_of_decode_write h
    rw [encode_of_decode_write h'] at he
    exact writeWord_inj.1 (Encoded.req.inj he.symm)

/-- Settles O5: rows and decoder meet in the encoding, so two rows that select one word are that of its decoding. -/
theorem decoderAgreesWithOpcodeTable : Obligations.DecoderAgreesWithOpcodeTable := by
  refine ⟨fun q i h => ⟨isTransaction_of_encode (decode_eq_some_iff.1 h), selects_of_decode h⟩,
    fun q i => decode_of_selects, fun u r f i => decodeUop_eq_some_iff, fun e i j hi hj => ?_⟩
  cases e with
  | req q =>
    obtain ⟨i', hdi, hri⟩ := decode_of_selects hi
    obtain ⟨j', hdj, hrj⟩ := decode_of_selects hj
    rw [← hri, ← hrj, Option.some.inj (hdi.symm.trans hdj)]
  | uop u r f =>
    rw [Option.some.inj ((decodeUop_eq_some_iff.2 hi).symm.trans (decodeUop_eq_some_iff.2 hj))]

/-- Settles O6, by evaluating the decoder on each word. -/
theorem printedWordsDecode : Obligations.PrintedWordsDecode := by
  unfold Obligations.PrintedWordsDecode
  decide

end

section
/-! SUPPORT. The port: what a step takes from the requests and what it delivers.  The last theorems of the section settle
the obligations about responses. -/

namespace Sys2Proof.Machine

section
variable {s t : State} {i : Instr}

/-- The transactions of an engine that are answered or still to be answered (R84). -/
def State.portCount (s : State) : Nat := s.requests.length + s.pending.toList.length + s.responses.length

/-- Delivery moves the pending response to the responses delivered (R84). -/
theorem State.deliver_portCount (s : State) : s.deliver.portCount = s.portCount := by
  rcases s.deliver_cases with ⟨-, h⟩ | ⟨-, -, h⟩ | ⟨r, -, hp, h⟩ <;> rw [h]
  simp only [State.portCount, hp, Option.toList_none, Option.toList_some, List.length_append, List.length_nil,
    List.length_singleton]
  omega

theorem State.deliver_of_busy (h : s.quiescent = false) : s.deliver = s := by
  simp [State.deliver, h]

/-- Delivery in a quiescent state leaves nothing pending and adds what was (R84, R213). -/
theorem State.deliver_responses (h : s.quiescent = true) : s.deliver.responses = s.responses ++ s.pending.toList := by
  rcases s.deliver_cases with ⟨hb, -⟩ | ⟨-, hp, hd⟩ | ⟨r, -, hp, hd⟩
  · simp [h] at hb
  · simp [hd, hp]
  · simp [hd, hp]

/-- An answer to a request just taken adds one response (R84). -/
theorem State.portCount_of_answered {r : Response} (hreq : t.requests = s.requests)
    (hresp : t.responses = s.responses) (hn : s.pending = none) (hp : t.pending = some r) :
    t.portCount = s.portCount + 1 := by
  simp only [State.portCount, hreq, hresp, hn, hp, Option.toList_none, Option.toList_some, List.length_nil,
    List.length_singleton]
  omega

/-- The request that a step takes off the port is not counted until it is answered. -/
theorem State.portCount_take {q : BitVec 40} {rest : List (BitVec 40)} (hreq : s.requests = q :: rest) :
    s.portCount = State.portCount { s.tickReset with requests := rest } + 1 := by
  simp only [State.portCount, hreq, List.length_cons, State.tickReset]
  omega

theorem Performs.portCount_of_enabledIn (hp : Performs s i t) (he : enabledIn i s) : t.portCount = s.portCount := by
  simp only [State.portCount, hp.keeps_requests, hp.keeps_responses, hp.pending_of_enabledIn he]

theorem StepsTo.portCount (h : StepsTo s t) (hs : s.Inv) (hr : s.resetAsserted = false) :
    t.portCount = s.portCount := by
  cases h with
  | reset hr' => simp [hr] at hr'
  | micro _ he hp =>
    rw [State.deliver_portCount, hp.portCount_of_enabledIn (enabledIn_tickReset.2 he)]
    rfl
  | request _ hq hreq _ hp =>
    obtain ⟨r, hr⟩ := Option.ne_none_iff_exists'.1 (hp.pending_of_quiescent hq)
    rw [State.deliver_portCount, State.portCount_take hreq]
    exact State.portCount_of_answered hp.keeps_requests hp.keeps_responses (hs.port.2 hq) hr
  | illegal _ hq hreq =>
    rw [State.deliver_portCount, State.portCount_take hreq, State.refuseIllegal_eq]
    exact State.portCount_of_answered rfl rfl (hs.port.2 hq) rfl
  | wait => rfl

end

end Sys2Proof.Machine

open Sys2Proof Sys2Proof.Machine

/-- Settles O7: the code stands above the read data. -/
theorem responseWordFields : Obligations.ResponseWordFields :=
  ⟨fun _ => ⟨BitVec.extractLsb'_append_eq_left, BitVec.extractLsb'_append_eq_right⟩, rfl, rfl, rfl, rfl, rfl⟩

/-- Settles O8, by the two laws of the selector. -/
theorem selectorChoosesTheEnabledMicroOp : Obligations.SelectorChoosesTheEnabledMicroOp :=
  ⟨fun _ _ => State.selected_eq_some, fun _ => State.selected_eq_none.symm⟩

/-- Settles O11, by the three cases of delivery. -/
theorem deliveryHandsOverThePendingResponse : Obligations.DeliveryHandsOverThePendingResponse := by
  intro s
  refine ⟨State.deliver_of_busy, fun r hq hp => ?_, fun hp => ?_⟩
  · simp [State.deliver, hq, hp]
  · simp [State.deliver, hp]

/-- Settles O14: the step of a busy engine is a micro-operation, which leaves the port to the delivery. -/
theorem busyEngineTakesNoRequest : Obligations.BusyEngineTakesNoRequest := by
  intro s t hr hq h
  cases stepsTo_of_step h with
  | @micro i u _ he hp =>
    have hpend := hp.pending_of_enabledIn (enabledIn_tickReset.2 he)
    rw [State.quiescent_deliver]
    refine ⟨by simp [hp.keeps_requests], fun hb => ?_, fun hd => ?_⟩
    · rw [State.deliver_of_busy hb]
      exact ⟨hp.keeps_responses, hpend⟩
    · rw [State.deliver_responses hd, State.deliver_pending, if_pos hd, hp.keeps_responses, hpend]
      exact ⟨rfl, rfl⟩
  | reset hr' => simp [hr] at hr'
  | request _ hq' | illegal _ hq' | wait _ hq' => simp [hq] at hq'

/-- Settles O15: a request taken off the port becomes the one response in progress, and delivery moves it. -/
theorem oneResponsePerRequest : Obligations.OneResponsePerRequest :=
  fun _ _ hs hr h => (stepsTo_of_step h).portCount hs hr

end

section
/-! SUPPORT. The engine takes a step from every state that meets the invariant.  The last theorem of the section settles
the obligation. -/

namespace Sys2Proof.Machine

section
variable {s : State} {i : Instr}

/-- An accepted transaction has a next state: only WRB appends to the buffer, and it has room (R158, R268). -/
theorem exists_performs_of_accepts (ha : s.accepts i) (hf : s.fill.val < 64) : ∃ t, Performs s i t := by
  cases i with
  | start =>
    cases hl : s.lenTooLong with
    | false => exact ⟨_, .start ha hl⟩
    | true => exact ⟨_, .tooLong ha hl⟩
  | abort => exact ⟨_, .abort ha⟩
  | compress => exact ⟨_, .compress ha⟩
  | rdstat | rdlenl | rdlenh | rdcntl | rdcnth | rdh | rdblk => exact ⟨_, .read ha rfl⟩
  | wrlenl => exact ⟨_, .wrlenl ha⟩
  | wrlenh => exact ⟨_, .wrlenh ha⟩
  | wrb => exact ⟨_, .wrb ha hf⟩
  | wrh => exact ⟨_, .wrh ha⟩
  | wrblk => exact ⟨_, .wrblk ha⟩
  | sched | loadv | round | feed | pad80 | padz | padlen | finish => cases ha.2

/-- Every transaction presented to a quiescent engine with room in its buffer has a next state (R214, R268). -/
theorem exists_performs_of_quiescent (hi : isTransaction i = true) (hq : s.quiescent = true) (hf : s.fill.val < 64) :
    ∃ t, Performs s i t := by
  cases ha : allowed i s.fphase with
  | true => exact exists_performs_of_accepts ⟨hq, ha⟩ hf
  | false =>
    by_cases hp : s.fphase = .fFault
    · refine ⟨_, .faulted hi hq hp ?_⟩
      rintro rfl
      cases ha
    · exact ⟨_, .outOfTurn hi hq hp ha⟩

/-- Every enabled micro-operation has a next state: only PAD80 and PADZ append, with the compressor idle (R158). -/
theorem exists_performs_of_enabledIn (he : enabledIn i s) (hf : s.cphase = .cIdle → s.fill.val < 64) :
    ∃ t, Performs s i t := by
  cases i with
  | sched => exact ⟨_, .sched he⟩
  | loadv => exact ⟨_, .loadv he⟩
  | round => exact ⟨_, .round he⟩
  | feed => exact ⟨_, .feed he⟩
  | pad80 => exact ⟨_, .pad80 he (hf he.1)⟩
  | padz => exact ⟨_, .padz he (hf he.1)⟩
  | padlen => exact ⟨_, .padlen he⟩
  | finish => exact ⟨_, .finish he⟩
  | _ => exact he.elim

/-- A step stops only at an append to a full buffer (R42 I1, R158). -/
theorem exists_stepsTo (hf : s.cphase = .cIdle → s.fill.val < 64) : ∃ t, StepsTo s t := by
  cases hr : s.resetAsserted with
  | true => exact ⟨_, .reset hr⟩
  | false =>
    cases hq : s.quiescent with
    | false =>
      obtain ⟨i, he⟩ := exists_enabledIn hq
      obtain ⟨u, hp⟩ := exists_performs_of_enabledIn (enabledIn_tickReset.2 he) hf
      exact ⟨_, .micro hr he hp⟩
    | true =>
      cases hreq : s.requests with
      | nil => exact ⟨_, .wait hr hq hreq⟩
      | cons q rest =>
        cases hd : decode q with
        | none => exact ⟨_, .illegal hr hq hreq hd⟩
        | some i =>
          have hi := isTransaction_of_encode (decode_eq_some_iff.1 hd)
          obtain ⟨u, hp⟩ := exists_performs_of_quiescent (s := { s.tickReset with requests := rest }) hi hq
            (hf (State.cphase_of_quiescent hq))
          exact ⟨_, .request hr hq hreq hd hp⟩

end

end Sys2Proof.Machine

open Sys2Proof Sys2Proof.Machine

/-- Settles O50: by R42 I1 an idle compressor leaves room in the buffer, and then nothing can stop a step. -/
theorem everyStepAnswersANextState : Obligations.EveryStepAnswersANextState := by
  intro s hs
  have hroom : s.cphase = .cIdle → s.fill.val < 64 := fun hc => Nat.lt_succ_of_le (hs.core.i1.2 hc)
  obtain ⟨t, ht⟩ := exists_stepsTo hroom
  exact ⟨t, step_of_stepsTo ht⟩

end

section
/-! SUPPORT. The combinational operations of the datapath: bit by bit, and their sums modulo 2^32.  The last theorems of
the section settle the obligations about them. -/

namespace Sys2Proof.Machine

/-! ### Rotation and shift -/

/-- The shifts and the disjunction of R113 are the library's rotation. -/
theorem rotr_eq_rotateRight (x : Word) {n : Nat} (hn : n < 32) : rotr x n = x.rotateRight n := by
  rw [rotr, BitVec.rotateRight_def, Nat.mod_eq_of_lt hn]

/-- Right rotation moves bit `i + n` (modulo 32) to bit `i` (R113). -/
theorem getLsbD_rotr (x : Word) {n i : Nat} (hn : n < 32) (hi : i < 32) :
    (rotr x n).getLsbD i = x.getLsbD ((i + n) % 32) := by
  rw [rotr_eq_rotateRight x hn, BitVec.getLsbD_rotateRight, Nat.mod_eq_of_lt hn]
  by_cases h : i < 32 - n
  · rw [decide_eq_true h, cond_true, Nat.mod_eq_of_lt (by omega), Nat.add_comm]
  · have hmod : (i + n) % 32 = i - (32 - n) := by omega
    rw [decide_eq_false h, cond_false, decide_eq_true hi, Bool.true_and, hmod]

/-- Right shift moves bit `i + n` to bit `i` and shifts zeros in (R114). -/
theorem getLsbD_shr (x : Word) (n i : Nat) :
    (shr x n).getLsbD i = if i < 32 - n then x.getLsbD (i + n) else false := by
  rw [shr, BitVec.getLsbD_ushiftRight, Nat.add_comm]
  split
  · rfl
  · exact BitVec.getLsbD_of_ge x _ (by omega)

theorem toNat_shr (x : Word) (n : Nat) : (shr x n).toNat = x.toNat / 2 ^ n := by
  rw [shr, BitVec.toNat_ushiftRight, Nat.shiftRight_eq_div_pow]

/-- A shift by `n` leaves `32 - n` bits. -/
theorem toNat_shr_lt (x : Word) {n : Nat} (hn : n ≤ 32) : (shr x n).toNat < 2 ^ (32 - n) := by
  rw [toNat_shr, Nat.div_lt_iff_lt_mul (Nat.two_pow_pos n), ← Nat.pow_add, Nat.sub_add_cancel hn]
  exact x.isLt

/-- Two rotations that turn the Word once around leave it as it is (R125). -/
theorem rotr_rotr (x : Word) {n : Nat} (h1 : 1 ≤ n) (hn : n < 32) : rotr (rotr x n) (32 - n) = x := by
  refine BitVec.eq_of_getLsbD_eq fun i hi => ?_
  have hturn : ((i + (32 - n)) % 32 + n) % 32 = i := by omega
  rw [getLsbD_rotr _ (by omega) hi, getLsbD_rotr _ hn (Nat.mod_lt _ (by decide)), hturn]

theorem rotr_xor (x y : Word) {n : Nat} (hn : n < 32) : rotr (x ^^^ y) n = rotr x n ^^^ rotr y n := by
  refine BitVec.eq_of_getLsbD_eq fun i hi => ?_
  simp only [BitVec.getLsbD_xor, getLsbD_rotr _ hn hi]

theorem rotr_and (x y : Word) {n : Nat} (hn : n < 32) : rotr (x &&& y) n = rotr x n &&& rotr y n := by
  refine BitVec.eq_of_getLsbD_eq fun i hi => ?_
  simp only [BitVec.getLsbD_and, getLsbD_rotr _ hn hi]

theorem rotr_not (x : Word) {n : Nat} (hn : n < 32) : rotr (~~~x) n = ~~~rotr x n := by
  refine BitVec.eq_of_getLsbD_eq fun i hi => ?_
  have hmod : (i + n) % 32 < 32 := Nat.mod_lt _ (by decide)
  simp only [BitVec.getLsbD_not, getLsbD_rotr _ hn hi, decide_eq_true hi, decide_eq_true hmod]

/-! ### Choice and majority -/

/-- `Ch` chooses between its second and third operand by the first (R117). -/
theorem getLsbD_ch (x y z : Word) {i : Nat} (hi : i < 32) :
    (ch x y z).getLsbD i = if x.getLsbD i then y.getLsbD i else z.getLsbD i := by
  rw [ch, BitVec.getLsbD_xor, BitVec.getLsbD_and, BitVec.getLsbD_and, BitVec.getLsbD_not, decide_eq_true hi]
  cases x.getLsbD i <;> simp

/-- `Maj` is the majority of the three bits (R118). -/
theorem getLsbD_maj (x y z : Word) (i : Nat) :
    (maj x y z).getLsbD i = decide (2 ≤ (x.getLsbD i).toNat + (y.getLsbD i).toNat + (z.getLsbD i).toNat) := by
  rw [maj, BitVec.getLsbD_xor, BitVec.getLsbD_xor, BitVec.getLsbD_and, BitVec.getLsbD_and, BitVec.getLsbD_and]
  generalize x.getLsbD i = a, y.getLsbD i = b, z.getLsbD i = c
  revert a b c
  decide

theorem ch_eq_xor_and (x y z : Word) : ch x y z = z ^^^ (x &&& (y ^^^ z)) := by
  refine BitVec.eq_of_getLsbD_eq fun i hi => ?_
  rw [getLsbD_ch x y z hi, BitVec.getLsbD_xor, BitVec.getLsbD_and, BitVec.getLsbD_xor]
  cases x.getLsbD i
  · simp
  · simp [Bool.xor_left_comm]

theorem ch_eq_or (x y z : Word) : ch x y z = (x &&& y) ||| (~~~x &&& z) := by
  refine BitVec.eq_of_getLsbD_eq fun i hi => ?_
  rw [getLsbD_ch x y z hi, BitVec.getLsbD_or, BitVec.getLsbD_and, BitVec.getLsbD_and, BitVec.getLsbD_not,
    decide_eq_true hi]
  cases x.getLsbD i <;> simp

theorem maj_eq_xor_and (x y z : Word) : maj x y z = (x &&& y) ^^^ (z &&& (x ^^^ y)) := by
  refine BitVec.eq_of_getLsbD_eq fun i _ => ?_
  rw [getLsbD_maj, BitVec.getLsbD_xor, BitVec.getLsbD_and, BitVec.getLsbD_and, BitVec.getLsbD_xor]
  generalize x.getLsbD i = a, y.getLsbD i = b, z.getLsbD i = c
  revert a b c
  decide

theorem maj_eq_or (x y z : Word) : maj x y z = (x &&& y) ||| (x &&& z) ||| (y &&& z) := by
  refine BitVec.eq_of_getLsbD_eq fun i _ => ?_
  rw [getLsbD_maj, BitVec.getLsbD_or, BitVec.getLsbD_or, BitVec.getLsbD_and, BitVec.getLsbD_and, BitVec.getLsbD_and]
  generalize x.getLsbD i = a, y.getLsbD i = b, z.getLsbD i = c
  revert a b c
  decide

/-! ### The sigma functions -/

section
variable (x : Word) {i : Nat} (hi : i < 32)
include hi

/-- An exclusive or of three rotations, bit by bit: the form of `Σ0` and `Σ1` (R119, R120). -/
theorem getLsbD_rotr_xor_rotr_xor_rotr {a b c : Nat} (ha : a < 32) (hb : b < 32) (hc : c < 32) :
    (rotr x a ^^^ rotr x b ^^^ rotr x c).getLsbD i =
      (x.getLsbD ((i + a) % 32) ^^ x.getLsbD ((i + b) % 32) ^^ x.getLsbD ((i + c) % 32)) := by
  rw [BitVec.getLsbD_xor, BitVec.getLsbD_xor, getLsbD_rotr x ha hi, getLsbD_rotr x hb hi, getLsbD_rotr x hc hi]

/-- Two rotations and a shift, bit by bit: the form of `σ0` and `σ1` (R121, R122). -/
theorem getLsbD_rotr_xor_rotr_xor_shr {a b : Nat} (c : Nat) (ha : a < 32) (hb : b < 32) :
    (rotr x a ^^^ rotr x b ^^^ shr x c).getLsbD i =
      (x.getLsbD ((i + a) % 32) ^^ x.getLsbD ((i + b) % 32) ^^ (if i < 32 - c then x.getLsbD (i + c) else false)) := by
  rw [BitVec.getLsbD_xor, BitVec.getLsbD_xor, getLsbD_rotr x ha hi, getLsbD_rotr x hb hi, getLsbD_shr]

theorem getLsbD_bigSigma0 : (bigSigma0 x).getLsbD i =
    (x.getLsbD ((i + 2) % 32) ^^ x.getLsbD ((i + 13) % 32) ^^ x.getLsbD ((i + 22) % 32)) :=
  getLsbD_rotr_xor_rotr_xor_rotr x hi (by decide) (by decide) (by decide)

theorem getLsbD_bigSigma1 : (bigSigma1 x).getLsbD i =
    (x.getLsbD ((i + 6) % 32) ^^ x.getLsbD ((i + 11) % 32) ^^ x.getLsbD ((i + 25) % 32)) :=
  getLsbD_rotr_xor_rotr_xor_rotr x hi (by decide) (by decide) (by decide)

theorem getLsbD_smallSigma0 : (smallSigma0 x).getLsbD i =
    (x.getLsbD ((i + 7) % 32) ^^ x.getLsbD ((i + 18) % 32) ^^ (if i < 29 then x.getLsbD (i + 3) else false)) :=
  getLsbD_rotr_xor_rotr_xor_shr x hi 3 (by decide) (by decide)

theorem getLsbD_smallSigma1 : (smallSigma1 x).getLsbD i =
    (x.getLsbD ((i + 17) % 32) ^^ x.getLsbD ((i + 19) % 32) ^^ (if i < 22 then x.getLsbD (i + 10) else false)) :=
  getLsbD_rotr_xor_rotr_xor_shr x hi 10 (by decide) (by decide)

end

/-! ### The sums, reduced once (R112) -/

theorem toNat_roundT1 (v : Vector Word 8) (k w : Word) : (roundT1 v k w).toNat =
    ((v.get 7).toNat + (bigSigma1 (v.get 4)).toNat + (ch (v.get 4) (v.get 5) (v.get 6)).toNat + k.toNat + w.toNat)
      % 2 ^ 32 := by
  simp only [roundT1, BitVec.toNat_add, Nat.mod_add_mod]
  rfl

theorem toNat_roundT2 (v : Vector Word 8) : (roundT2 v).toNat =
    ((bigSigma0 (v.get 0)).toNat + (maj (v.get 0) (v.get 1) (v.get 2)).toNat) % 2 ^ 32 :=
  BitVec.toNat_add _ _

theorem toNat_expandWord (w2 w7 w15 w16 : Word) : (expandWord w2 w7 w15 w16).toNat =
    ((smallSigma1 w2).toNat + w7.toNat + (smallSigma0 w15).toNat + w16.toNat) % 2 ^ 32 := by
  simp only [expandWord, BitVec.toNat_add, Nat.mod_add_mod]

end Sys2Proof.Machine

open Sys2Proof Sys2Proof.Machine

/-- Settles O43, by the law of each function that says its bit `i`. -/
theorem datapathFunctionsBitByBit : Obligations.DatapathFunctionsBitByBit := by
  refine ⟨fun x n i _ hn hi => getLsbD_rotr x (Nat.lt_succ_of_le hn) hi, fun x n _ _ => toNat_shr x n,
    fun x y z i hi => ⟨getLsbD_ch x y z hi, getLsbD_maj x y z i⟩, fun x i hi => ?_⟩
  exact ⟨getLsbD_bigSigma0 x hi, getLsbD_bigSigma1 x hi, getLsbD_smallSigma0 x hi, getLsbD_smallSigma1 x hi⟩

/-- Settles O44: the identities from the bits of both sides, the sums from the wrapping additions. -/
theorem datapathIdentities : Obligations.DatapathIdentities := by
  refine ⟨fun x y z => ?_, fun x y n h1 hn => ?_, toNat_roundT1, toNat_roundT2, toNat_expandWord⟩
  · exact ⟨ch_eq_xor_and x y z, ch_eq_or x y z, maj_eq_xor_and x y z, maj_eq_or x y z⟩
  · have hlt : n < 32 := Nat.lt_succ_of_le hn
    exact ⟨rotr_rotr x h1 hlt, rotr_xor x y hlt, rotr_and x y hlt, rotr_not x hlt, toNat_shr_lt x hlt.le⟩

end

section
/-! SUPPORT. The fault phase: every request is answered by a whole step that changes the port alone.  The last theorem
of the section settles the obligation. -/

namespace Sys2Proof.Machine

section
variable {s : State} {q : BitVec 40} {rest : List (BitVec 40)}

/-- The step of a quiescent engine processes the next request and delivers its response (R213, R214). -/
theorem step_eq_execRequest (hr : s.resetAsserted = false) (hq : s.quiescent = true) (hreq : s.requests = q :: rest) :
    step s = mapNext State.deliver (execRequest q { s.tickReset with requests := rest }) := by
  cases hd : decode q with
  | none =>
    have htaken : State.quiescent { s.tickReset with requests := rest } = true := hq
    rw [execRequest_of_none hd htaken, mapNext_next]
    exact step_of_stepsTo (.illegal hr hq hreq hd)
  | some i =>
    have hf : s.fetch = .run i { s.tickReset with requests := rest } := by
      simp [State.fetch, hr, State.selected_of_quiescent hq, hreq, hd]
    rw [step, hf, execRequest_of_some _ hd]

/-- A quiescent engine delivers what it has just answered (R84, R213). -/
theorem State.deliver_respond (hq : s.quiescent = true) (c : RspCode) (w : Word) :
    (s.respond c w).deliver = { s with responses := s.responses ++ [⟨c, w⟩], pending := none } := by
  have hq' : (s.respond c w).quiescent = true := (State.quiescent_congr rfl rfl rfl).trans hq
  rw [State.deliver, if_pos hq']
  rfl

theorem State.inFault.quiescent (hs : s.inFault) : s.quiescent = true :=
  State.quiescent_iff.2 ⟨hs.1, .inr (.inr (.inl hs.2))⟩

/-- In the fault phase RDSTAT reads the code of that phase (R31, R223). -/
theorem exec_rdstat_of_inFault (hs : s.inFault) : exec .rdstat s = .next (s.respond .ok 7#32) := by
  have ha : s.accepts .rdstat := ⟨hs.quiescent, hs.2 ▸ rfl⟩
  have hw : s.status = 7#32 := by rw [State.status, hs.2]; rfl
  exact exec_read ha (congrArg some hw)

/-- The answer to any request word in the fault phase (R142, R214, R262). -/
theorem execRequest_of_inFault (hs : s.inFault) (q : BitVec 40) :
    execRequest q s = .next (if decode q = some .rdstat then s.respond .ok 7#32 else s.respond .eInit 0#32) := by
  cases hd : decode q with
  | none =>
    rw [execRequest_of_none hd hs.quiescent, State.refuseIllegal_eq, if_pos hs.2]
    rfl
  | some i =>
    rw [execRequest_of_some s hd]
    by_cases hi : i = .rdstat
    · rw [hi, exec_rdstat_of_inFault hs, if_pos rfl]
    · have ht := isTransaction_of_encode (decode_eq_some_iff.1 hd)
      rw [exec_of_performs (.faulted ht hs.quiescent hs.2 hi), if_neg (by simpa using hi)]
      rfl

end

end Sys2Proof.Machine

open Sys2Proof Sys2Proof.Machine

/-- Settles O29: the answer to the request word, whether it decodes or not, is delivered in the same step. -/
theorem faultPhaseAnswersOnlyStatus : Obligations.FaultPhaseAnswersOnlyStatus := by
  intro s q rest hs hr hreq
  have htaken : State.inFault { s.tickReset with requests := rest } := hs
  rw [step_eq_execRequest hr (State.inFault.quiescent hs) hreq, execRequest_of_inFault htaken, mapNext_next]
  split <;> rw [State.deliver_respond htaken.quiescent] <;> rfl

end

section
/-! SUPPORT. The ROM: the root that is found bit by bit, and the tables as the roots of the generated primes.  The last
theorem of the section settles the obligation. -/

namespace Sys2Proof.Machine

/-- A root between `acc` and `acc + 2 ^ bits` is found by trying the bits from the top (R134, R138). -/
theorem rootBelow_spec {e n : Nat} :
    ∀ {bits acc : Nat}, acc ^ e ≤ n → n < (acc + 2 ^ bits) ^ e →
      rootBelow e n bits acc ^ e ≤ n ∧ n < (rootBelow e n bits acc + 1) ^ e
  | 0, _, hle, hlt => ⟨hle, hlt⟩
  | b + 1, acc, hle, hlt => by
    rw [rootBelow]
    split
    · next h => exact rootBelow_spec h (by rwa [Nat.add_assoc, ← Nat.two_mul, ← Nat.pow_succ'])
    · next h => exact rootBelow_spec hle (Nat.lt_of_not_le h)

theorem icbrt_spec {n : Nat} (hn : n < 2 ^ 120) : icbrt n ^ 3 ≤ n ∧ n < (icbrt n + 1) ^ 3 :=
  rootBelow_spec (Nat.zero_le n) (by simpa using hn)

theorem isqrt_spec {n : Nat} (hn : n < 2 ^ 80) : isqrt n ^ 2 ≤ n ∧ n < (isqrt n + 1) ^ 2 :=
  rootBelow_spec (Nat.zero_le n) (by simpa using hn)

/-- The candidates tried are those below `c + fuel` (R130). -/
theorem lt_of_mem_collectPrimes {p : Nat} : ∀ {fuel n c : Nat}, p ∈ collectPrimes fuel n c → p < c + fuel
  | 0, _, _, h | _ + 1, 0, _, h => by simp [collectPrimes] at h
  | fuel + 1, n + 1, c, h => by
    have ih {m : Nat} (hm : p ∈ collectPrimes fuel m (c + 1)) : p < c + (fuel + 1) := by
      have := lt_of_mem_collectPrimes hm
      omega
    rw [collectPrimes] at h
    split at h
    · obtain rfl | h := List.mem_cons.1 h
      · omega
      · exact ih h
    · exact ih h

/-- Every prime the ROM is derived from is below 314, within the reach of both roots (R131, R134, R138). -/
theorem lt_of_mem_generatePrimes {n p : Nat} (h : p ∈ generatePrimes n) : p < 314 :=
  lt_of_mem_collectPrimes h

/-- The round constants are derived from the first 64 primes, in order (R133, R136). -/
theorem kTable_eq_map_deriveK : kTable.toList = (generatePrimes 64).map deriveK := by
  decide +kernel

/-- The initial state is derived from the first 8 primes, in order (R137, R139). -/
theorem h0Table_eq_map_deriveH0 : h0Table.toList = (generatePrimes 8).map deriveH0 := by
  decide +kernel

/-- An entry of a table of derived Words is derived from the prime at its index. -/
theorem exists_prime_of_table {k n : Nat} {table : Vector Word k} {derive : Nat → Word}
    (h : table.toList = (generatePrimes n).map derive) (i : Fin k) :
    ∃ p, (generatePrimes n)[i.val]? = some p ∧ p < 314 ∧ table.get i = derive p := by
  have hi : ((generatePrimes n).map derive)[i.val]? = some (table.get i) := by
    rw [← h]
    simp [Vector.get]
  rw [List.getElem?_map, Option.map_eq_some_iff] at hi
  obtain ⟨p, hp, hd⟩ := hi
  exact ⟨p, hp, lt_of_mem_generatePrimes (List.mem_of_getElem? hp), hd.symm⟩

end Sys2Proof.Machine

open Sys2Proof Sys2Proof.Machine

/-- Settles O45: the tables are the lists of derived Words, and the roots meet the inequalities for every prime below
314. -/
theorem romTablesAreDerived : Obligations.RomTablesAreDerived := by
  refine ⟨fun i => ?_, fun i => ?_⟩
  · obtain ⟨p, hp, hlt, hk⟩ := exists_prime_of_table kTable_eq_map_deriveK i
    obtain ⟨hle, hroot⟩ := icbrt_spec (n := p * 2 ^ 96) (by omega)
    exact ⟨p, _, hp, hle, hroot, hk⟩
  · obtain ⟨p, hp, hlt, hh⟩ := exists_prime_of_table h0Table_eq_map_deriveH0 i
    obtain ⟨hle, hroot⟩ := isqrt_spec (n := p * 2 ^ 64) (by omega)
    exact ⟨p, _, hp, hle, hroot, hh⟩

end

section
/-! SUPPORT. The formatter: what an append leaves, the length field byte by byte, and the size of a padded message.  The
last theorems of the section settle the obligations. -/

namespace Sys2Proof.Machine

/-- A read of a block after a write of one byte. -/
theorem get_set_block (b : Vector Byte 64) {k : Nat} (hk : k < 64) (x : Byte) (j : Fin 64) :
    (b.set k x hk).get j = if j.val = k then x else b.get j := by
  simp only [Vector.get_eq_getElem, Vector.getElem_set, eq_comm (a := k)]

/-! ### Append -/

section
variable {s : State} {x : Byte}

/-- `append` counts the byte, starts the compressor at the last index, and beside the buffer changes nothing else
(R158, R159). -/
theorem State.appended_frame (hf : s.fill.val < 64) :
    s.appended x hf = { s with
      B := (s.appended x hf).B
      fill := Fin.ofNat 65 (s.fill.val + 1)
      cphase := if s.fill.val = 63 then .cSched else s.cphase
      t := if s.fill.val = 63 then 0#6 else s.t } := by
  have hfill : (⟨s.fill.val + 1, by omega⟩ : Fin 65) = Fin.ofNat 65 (s.fill.val + 1) :=
    Fin.ext (Nat.mod_eq_of_lt (by omega)).symm
  unfold State.appended
  by_cases hlast : s.fill.val = 63
  · simp [hlast, State.putByte, State.callCompress]
  · simp [hlast, State.putByte, hfill]

/-- `append` stores the byte at index `fill` and no other (R158). -/
theorem State.appended_B_get (hf : s.fill.val < 64) (j : Fin 64) :
    (s.appended x hf).B.get j = if j.val = s.fill.val then x else s.B.get j := by
  have hB : (s.appended x hf).B = s.B.set s.fill.val x := by
    unfold State.appended
    split <;> rfl
  rw [hB, get_set_block]

theorem State.append_of_full (hf : s.fill.val = 64) : s.append x = .fault .appendFull :=
  State.append_full s x (by omega)

theorem exec_pad80_of_enabledIn (he : enabledIn .pad80 s) :
    exec .pad80 s = mapNext (fun s' => { s' with fphase := .fPadz }) (s.append 0x80#8) := by
  rw [exec_pad80, execPad80, decide_eq_true (show _ ∧ _ ∧ _ from he), State.microOp_enabled]

theorem exec_padz_of_enabledIn (he : enabledIn .padz s) : exec .padz s = s.append 0x00#8 := by
  rw [exec_padz, execPadz, decide_eq_true (show _ ∧ _ ∧ _ from he), State.microOp_enabled]

end

/-! ### The length field -/

/-- The bit length is `8 * LEN` modulo 2^64 (R124). -/
theorem bitLength_eq_ofNat (len : DWord) : bitLength len = BitVec.ofNat 64 (8 * len.toNat) := by
  have happend : (bitLength len).toNat = len.toNat % 2 ^ 61 * 2 ^ 3 :=
    (BitVec.toNat_append (len.extractLsb' 0 61) 0#3).trans (by simp [Nat.shiftLeft_eq])
  apply BitVec.eq_of_toNat_eq
  rw [happend, BitVec.toNat_ofNat]
  omega

/-- Byte `i` of a 64-bit number, counted from the most significant one (R11). -/
theorem getElem_bytesBe64_ofNat (n : Nat) {i : Nat} (hi : i < 8) :
    (bytesBe64 (BitVec.ofNat 64 n))[i] = BitVec.ofNat 8 (n / 256 ^ (7 - i)) := by
  apply BitVec.eq_of_toNat_eq
  interval_cases i <;> simp [bytesBe64, Nat.shiftRight_eq_div_pow] <;> omega

/-- The length field replaces the last eight bytes of a block and no other (R58, R163). -/
theorem setLengthField_get (b : Vector Byte 64) (x : DWord) (j : Fin 64) :
    (setLengthField b x).get j = if h : 56 ≤ j.val then (bytesBe64 x)[j.val - 56] else b.get j := by
  obtain ⟨j, hj⟩ := j
  simp only [setLengthField, get_set_block]
  by_cases h : 56 ≤ j
  · interval_cases j <;> rfl
  · have hne (k : Nat) (hk : 56 ≤ k) : j ≠ k := by omega
    simp [h, hne]

/-! ### The padded message -/

theorem length_pad (m : List Byte) : (pad m).length = m.length + 1 + zeroBytes m.length + 8 := by
  simp only [pad, List.length_append, List.length_singleton, List.length_replicate, Vector.length_toList]

theorem length_pad_eq_blocks (m : List Byte) : (pad m).length = 64 * blockCount m.length := by
  rw [length_pad, zeroBytes, blockCount]
  omega

/-- The zero fill leaves room for the length field (R151). -/
theorem zeroBytes_mod (n : Nat) : (n + 1 + zeroBytes n) % 64 = 56 := by
  rw [zeroBytes]
  omega

/-- No shorter fill leaves room for the length field (R151). -/
theorem zeroBytes_le {n z : Nat} (h : (n + 1 + z) % 64 = 56) : zeroBytes n ≤ z := by
  rw [zeroBytes]
  omega

theorem blockCount_of_fits {n : Nat} (h : n % 64 ≤ 55) : blockCount n = n / 64 + 1 := by
  rw [blockCount]
  omega

theorem blockCount_of_spills {n : Nat} (h : 56 ≤ n % 64) : blockCount n = n / 64 + 2 := by
  rw [blockCount]
  omega

end Sys2Proof.Machine

open Sys2Proof Sys2Proof.Machine

/-- Settles O31: PAD80 is an append of 0x80 and a change of phase. -/
theorem pad80AppendsTheOneBit : Obligations.Pad80AppendsTheOneBit := by
  intro s hc hp hr
  have he : enabledIn .pad80 s := ⟨hc, hp, hr⟩
  refine ⟨fun hf => ?_, fun hf => ?_⟩
  · have hlt : s.fill.val < 64 := by omega
    refine ⟨_, exec_of_performs (.pad80 he hlt), ?_, State.appended_B_get hlt⟩
    exact congrArg (fun t : State => { t with fphase := .fPadz }) (State.appended_frame hlt)
  · rw [exec_pad80_of_enabledIn he, State.append_of_full hf, mapNext]

/-- Settles O32: PADZ is an append of a zero byte. -/
theorem padzAppendsAZeroByte : Obligations.PadzAppendsAZeroByte := by
  intro s hc hp hne
  have he : enabledIn .padz s := ⟨hc, hp, hne⟩
  refine ⟨fun hf => ?_, fun hf => ?_⟩
  · have hlt : s.fill.val < 64 := by omega
    exact ⟨_, exec_of_performs (.padz he hlt), State.appended_frame hlt, State.appended_B_get hlt⟩
  · rw [exec_padz_of_enabledIn he, State.append_of_full hf]

/-- Settles O33: the length field is read back byte by byte. -/
theorem padlenWritesTheBitLength : Obligations.PadlenWritesTheBitLength := by
  intro s hc hp h56
  refine ⟨_, exec_of_performs (.padlen ⟨hc, hp, h56⟩), rfl, fun j => ?_⟩
  rw [State.callCompress_B, setLengthField_get, bitLength_eq_ofNat]
  split
  · next hj => rw [getElem_bytesBe64_ofNat _ (by omega), show 7 - (j.val - 56) = 63 - j.val by omega]
  · rfl

/-- Settles O34: the phase `F_DONE` with the compressor idle is quiescent. -/
theorem finishEndsTheRun : Obligations.FinishEndsTheRun :=
  fun _ hc hp => ⟨exec_of_performs (.finish ⟨hc, hp⟩), State.quiescent_iff.2 ⟨hc, .inr (.inl rfl)⟩⟩

/-- Settles O35: the length of the padded message and the least zero fill, by the residue of the message's length. -/
theorem paddingFillsWholeBlocks : Obligations.PaddingFillsWholeBlocks :=
  fun m => ⟨length_pad_eq_blocks m, zeroBytes_mod m.length, fun _ => zeroBytes_le, blockCount_of_fits,
    blockCount_of_spills⟩

end

section
/-! SUPPORT. The compressor: one law per micro-operation, the schedule and the rounds by induction on the index, and the
whole of a compression.  The last theorems of the section settle the obligations. -/

namespace Sys2Proof.Machine

/-! ### Reads by index -/

/-- A register of 64 entries read at a number that is an index. -/
theorem getElem_eq_get_ofNat {α : Type} (v : Vector α 64) {n : Nat} (hn : n < 64) : v[n] = v.get (Fin.ofNat 64 n) := by
  have hfin : Fin.ofNat 64 n = ⟨n, hn⟩ := Fin.ext (Nat.mod_eq_of_lt hn)
  rw [hfin]
  rfl

/-- The index `t` as an index of `K` and `W`. -/
theorem toFin_eq_ofNat (t : BitVec 6) : t.toFin = Fin.ofNat 64 t.toNat :=
  Fin.ext (Nat.mod_eq_of_lt t.isLt).symm

theorem toNat_index {n : Nat} (hn : n < 64) : (BitVec.ofNat 6 n).toNat = n :=
  (BitVec.toNat_ofNat n 6).trans (Nat.mod_eq_of_lt hn)

/-- A register of 64 Words read at the index `n`, as an entry of its list. -/
theorem get_ofNat_eq_getD (v : Vector Word 64) {n : Nat} (hn : n < 64) :
    v.get (BitVec.ofNat 6 n).toFin = v.toList.getD n 0#32 := by
  rw [toFin_eq_ofNat, toNat_index hn, ← getElem_eq_get_ofNat v hn]
  simp [List.getD, hn]

theorem index_eq_last_iff {n : Nat} (hn : n < 64) : BitVec.ofNat 6 n = 63#6 ↔ n + 1 = 64 := by
  rw [← BitVec.toNat_inj, toNat_index hn]
  exact Nat.succ_inj.symm

/-- The index that follows `n`, which is 0 after the last one (R185, R187). -/
theorem index_succ (n : Nat) : (if n + 1 = 64 then 0#6 else BitVec.ofNat 6 n + 1#6) = BitVec.ofNat 6 (n + 1) := by
  split
  · next h => rw [h]; rfl
  · rw [BitVec.ofNat_add]

/-! ### One micro-operation -/

/-- `advance` in one equation (R185, R187). -/
theorem State.advance_eq (s : State) (n : CPhase) :
    s.advance n = { s with
      t := if s.t = 63#6 then 0#6 else s.t + 1#6
      cphase := if s.t = 63#6 then n else s.cphase } := by
  rcases s.advance_cases n with ⟨h, hadv⟩ | ⟨h, hadv⟩ <;> simp [hadv, h]

/-- The schedule Word of index `t` from the block or from four earlier Words (R185). -/
theorem schedWord_eq (b : Vector Byte 64) (w : Vector Word 64) (t : BitVec 6) : schedWord b w t =
    if t.toNat < 16 then
      be32 (b.get (Fin.ofNat 64 (4 * t.toNat))) (b.get (Fin.ofNat 64 (4 * t.toNat + 1)))
        (b.get (Fin.ofNat 64 (4 * t.toNat + 2))) (b.get (Fin.ofNat 64 (4 * t.toNat + 3)))
    else
      smallSigma1 (w.get (Fin.ofNat 64 (t.toNat - 2))) + w.get (Fin.ofNat 64 (t.toNat - 7))
        + smallSigma0 (w.get (Fin.ofNat 64 (t.toNat - 15))) + w.get (Fin.ofNat 64 (t.toNat - 16)) := by
  unfold schedWord blockWord expandWord
  split <;> simp only [getElem_eq_get_ofNat]

/-- A read of the schedule after a write of one Word. -/
theorem get_set_schedule (w : Vector Word 64) {n : Nat} (hn : n < 64) (x : Word) (k : Fin 64) :
    (w.set n x hn).get k = if k.val = n then x else w.get k := by
  simp only [Vector.get_eq_getElem, Vector.getElem_set, eq_comm (a := n)]

theorem feedWords_get (h v : Vector Word 8) (i : Fin 8) : (feedWords h v).get i = h.get i + v.get i := by
  fin_cases i <;> rfl

/-! ### Micro-steps in sequence -/

theorem microStep_of_performs {s t : State} {i : Instr} (he : enabledIn i s) (hp : Performs s i t) :
    microStep s = .next t := by
  rw [microStep, selected_of_enabledIn he]
  exact exec_of_performs hp

theorem microSteps_add {j : Nat} (k : Nat) {s u : State} (h : microSteps j s = .next u) :
    microSteps (j + k) s = microSteps k u := by
  induction j generalizing s with
  | zero =>
    cases h
    rw [Nat.zero_add]
  | succ j ih =>
    rw [Nat.add_right_comm]
    rw [microSteps] at h ⊢
    cases hm : microStep s with
    | next v =>
      rw [hm] at h
      exact ih h
    | fault r | refused r => simp [hm] at h

/-- One more micro-step at the end of a run. -/
theorem microSteps_succ {n : Nat} {s u v : State} (h : microSteps n s = .next u) (hv : microStep u = .next v) :
    microSteps (n + 1) s = .next v := by
  rw [microSteps_add 1 h, microSteps, hv]
  rfl

/-! ### The schedule (R180 Stage A) -/

/-- Word `t` of the schedule depends on the Words below `t` alone, and the engine computes it as R180 does. -/
theorem schedWord_eq_next (b : Vector Byte 64) (w : Vector Word 64) (t : BitVec 6) :
    schedWord b w t = nextScheduleWord b (w.toList.take t.toNat) := by
  have hlen : (w.toList.take t.toNat).length = t.toNat := by
    rw [List.length_take, Vector.length_toList]
    omega
  have hget (n : Nat) (hn : n < t.toNat) : (w.toList.take t.toNat).getD n 0#32 = w[n] := by
    simp [List.getD, List.getElem?_take_of_lt hn, show n < 64 by omega]
  unfold schedWord nextScheduleWord
  simp only [hlen]
  split
  · rfl
  · rw [hget _ (by omega), hget _ (by omega), hget _ (by omega), hget _ (by omega)]

/-- Writing Word `n` extends the first `n` Words by one. -/
theorem take_set_succ (w : Vector Word 64) {n : Nat} (hn : n < 64) (x : Word) :
    (w.set n x hn).toList.take (n + 1) = w.toList.take n ++ [x] := by
  rw [Vector.toList_set, List.take_succ_eq_append_getElem (by simpa using hn), List.take_set_of_le (le_refl n),
    List.getElem_set_self]

/-- The state at index `n` of the schedule, `w` being what the schedule register holds. -/
def State.scheduling (s : State) (w : Vector Word 64) (n : Nat) : State :=
  { s with W := w, t := BitVec.ofNat 6 n, cphase := if n = 64 then .cInit else .cSched }

theorem microStep_scheduling (s : State) (w : Vector Word 64) {n : Nat} (hn : n < 64) :
    microStep (s.scheduling w n) =
      .next (s.scheduling (w.set n (nextScheduleWord s.B (w.toList.take n)) hn) (n + 1)) := by
  have hc : (s.scheduling w n).cphase = .cSched := if_neg hn.ne
  rw [microStep_of_performs (i := .sched) hc (.sched hc), State.advance_eq, schedWord_eq_next]
  simp only [State.scheduling, toNat_index hn, index_eq_last_iff hn, index_succ, hn.ne, if_false]

/-- After `n` micro-steps the first `n` Words of the schedule stand in `W`. -/
theorem microSteps_schedule (s : State) {n : Nat} (hn : n ≤ 64) :
    ∃ w, microSteps n s.callCompress = .next (s.scheduling w n) ∧ w.toList.take n = schedule s.B n := by
  induction n with
  | zero => exact ⟨s.W, rfl, rfl⟩
  | succ n ih =>
    have hlt : n < 64 := hn
    obtain ⟨w, hw, hsched⟩ := ih hlt.le
    refine ⟨_, microSteps_succ hw (microStep_scheduling s w hlt), ?_⟩
    rw [take_set_succ w hlt, hsched, schedule]

/-! ### The rounds (R180 Stages B and C) -/

/-- The state at index `n` of the rounds. -/
def State.mixing (s : State) (n : Nat) : State :=
  { s with
    V := workingVars s.K s.W.toList s.H n
    t := BitVec.ofNat 6 n
    cphase := if n = 64 then .cFeed else .cRound }

/-- LOADV begins the rounds. -/
theorem microStep_scheduling_last (s : State) (w : Vector Word 64) :
    microStep (s.scheduling w 64) = .next (State.mixing { s with W := w } 0) :=
  microStep_of_performs (i := .loadv) rfl (.loadv rfl)

theorem microStep_mixing (s : State) {n : Nat} (hn : n < 64) : microStep (s.mixing n) = .next (s.mixing (n + 1)) := by
  have hc : (s.mixing n).cphase = .cRound := if_neg hn.ne
  rw [microStep_of_performs (i := .round) hc (.round hc), State.advance_eq]
  simp only [State.mixing, get_ofNat_eq_getD _ hn, index_eq_last_iff hn, index_succ, hn.ne, if_false, workingVars]

/-- FEED ends the compression (R188). -/
theorem microStep_mixing_last (s : State) : microStep (s.mixing 64) =
    .next { s.mixing 64 with
      H := feedWords s.H (s.mixing 64).V, blkcnt := s.blkcnt + 1#64, fill := 0, cphase := .cIdle } :=
  microStep_of_performs (i := .feed) rfl (.feed rfl)

theorem microSteps_rounds (s : State) {n : Nat} (hn : n ≤ 64) : microSteps n (s.mixing 0) = .next (s.mixing n) := by
  induction n with
  | zero => rfl
  | succ n ih =>
    have hlt : n < 64 := hn
    exact microSteps_succ (ih hlt.le) (microStep_mixing s hlt)

/-! ### The whole compression -/

/-- The schedule takes 64 micro-steps and LOADV one, and then the rounds begin. -/
theorem exists_microSteps_mixing (s : State) : ∃ w : Vector Word 64, w.toList = schedule s.B 64 ∧
    ∀ n ≤ 64, microSteps (65 + n) s.callCompress = .next (State.mixing { s with W := w } n) := by
  obtain ⟨w, hw, hsched⟩ := microSteps_schedule s (le_refl 64)
  have hloadv := microSteps_succ hw (microStep_scheduling_last s w)
  refine ⟨w, ?_, fun n hn => (microSteps_add n hloadv).trans (microSteps_rounds _ hn)⟩
  rwa [List.take_of_length_le Vector.length_toList.le] at hsched

theorem State.scheduling_running (s : State) (w : Vector Word 64) (n : Nat) : (s.scheduling w n).cphase ≠ .cIdle := by
  unfold State.scheduling
  split <;> simp

theorem State.mixing_running (s : State) (n : Nat) : (s.mixing n).cphase ≠ .cIdle := by
  unfold State.mixing
  split <;> simp

/-- Before its last micro-step the compressor is at an index of the schedule or of the rounds. -/
theorem microSteps_running (s : State) {k : Nat} (hk : k < 130) :
    ∃ v, microSteps k s.callCompress = .next v ∧ v.cphase ≠ .cIdle := by
  by_cases h : k ≤ 64
  · obtain ⟨w, hw, -⟩ := microSteps_schedule s h
    exact ⟨_, hw, s.scheduling_running w k⟩
  · obtain ⟨w, -, hmix⟩ := exists_microSteps_mixing s
    obtain ⟨n, rfl⟩ := Nat.exists_eq_add_of_le (show 65 ≤ k by omega)
    exact ⟨_, hmix n (by omega), State.mixing_running _ n⟩

end Sys2Proof.Machine

open Sys2Proof Sys2Proof.Machine

/-- Settles O42: 64 SCHED, one LOADV and 64 ROUND lead to the last index of the rounds, and FEED ends the
compression. -/
theorem compressionTakes130MicroSteps : Obligations.CompressionTakes130MicroSteps := by
  intro s
  obtain ⟨w, hw, hmix⟩ := exists_microSteps_mixing s
  refine ⟨_, microSteps_succ (hmix 64 (le_refl 64)) (microStep_mixing_last _), ?_, hw, fun _ => microSteps_running s⟩
  rw [compress, ← hw]
  rfl

/-- Settles O36: the Word written is `schedWord`, and `advance` counts. -/
theorem schedWritesOneScheduleWord : Obligations.SchedWritesOneScheduleWord := by
  intro s hc
  refine ⟨_, exec_of_performs (.sched hc), ?_, fun k => ?_⟩
  · rw [State.advance_eq, hc]
  · rw [State.advance_W, get_set_schedule, schedWord_eq]
    by_cases hk : k.val = s.t.toNat
    · rw [if_pos hk, if_pos hk, hk]
    · rw [if_neg hk, if_neg hk]

/-- Settles O39: FEED adds Word by Word. -/
theorem feedAddsTheWorkingVariables : Obligations.FeedAddsTheWorkingVariables := by
  intro s hc
  refine ⟨_, exec_of_performs (.feed hc), ?_, fun i => ?_⟩
  · have hcount : s.blkcnt + 1#64 = BitVec.ofNat 64 ((s.blkcnt.toNat + 1) % 2 ^ 64) :=
      BitVec.eq_of_toNat_eq (by simp)
    rw [hcount]
  · rw [feedWords_get, BitVec.toNat_add]

/-- Settles O37: the meaning of LOADV, and R42 I4 for `t`. -/
theorem loadvCopiesTheState : Obligations.LoadvCopiesTheState :=
  fun _ hc => ⟨exec_of_performs (.loadv hc), fun hs => hs.i4 (.inr (.inl hc))⟩

/-- Settles O38: the new working variables are `roundWords`, and `advance` counts. -/
theorem roundMixesOnce : Obligations.RoundMixesOnce := by
  intro s a b c d e f g h hc hV
  rw [exec_of_performs (.round hc), State.advance_eq, hc, hV, toFin_eq_ofNat]
  rfl

end

section
/-! SUPPORT. The work a busy engine has left: every micro-step does one of the micro-steps left, so a run reaches
quiescence, and the steps of the machine follow it.  The last theorems of the section settle the obligations. -/

namespace Sys2Proof.Machine

/-! ### The micro-steps left -/

/-- The micro-steps the formatter has left when the compressor is idle and `fill` bytes are buffered (R301). -/
def formatterLeft (p : FPhase) (rem : DWord) (fill : Nat) : Nat :=
  match p with
  | .fMsg => if rem = 0#64 then pad80Left fill else 0
  | .fPadz => padLeft fill
  | .fLast => 1
  | .fIdle | .fDone | .fFault => 0

/-- The part of R42 that the count of micro-steps needs: room for a byte while the compressor is idle, and the rounds
begin at index 0.  Every micro-step keeps it, whatever else the state holds. -/
structure State.Countable (s : State) : Prop where
  room : s.cphase = .cIdle → s.fill.val < 64
  index : s.cphase = .cInit → s.t = 0#6

theorem State.CoreInv.countable {s : State} (h : s.CoreInv) : s.Countable :=
  ⟨fun hc => Nat.lt_succ_of_le (h.i1.2 hc), fun hc => h.i4 (.inr (.inl hc))⟩

/-- A byte appended in the padding leaves one micro-step less, in this block or in the next. -/
theorem padLeft_of_append {n : Nat} (hn : n < 64) (h56 : n ≠ 56) :
    padLeft n = (if n = 63 then 130 + padLeft 0 else padLeft (n + 1)) + 1 := by
  unfold padLeft
  split_ifs <;> omega

theorem pad80Left_of_append {n : Nat} (hn : n < 64) :
    pad80Left n = (if n = 63 then 130 + padLeft 0 else padLeft (n + 1)) + 1 := by
  unfold pad80Left
  split_ifs <;> omega

theorem padLeft_le {n : Nat} (hn : n ≤ 64) : padLeft n ≤ 325 := by
  unfold padLeft
  split_ifs <;> omega

theorem pad80Left_le {n : Nat} : pad80Left n ≤ 326 := by
  unfold pad80Left
  split_ifs with h
  · have := padLeft_le (show n + 1 ≤ 64 by omega)
    omega
  · decide

theorem formatterLeft_le {p : FPhase} {rem : DWord} {n : Nat} (hn : n ≤ 64) : formatterLeft p rem n ≤ 326 := by
  have hpad := padLeft_le hn
  have hpad80 := pad80Left_le (n := n)
  unfold formatterLeft
  split <;> (try split) <;> omega

theorem formatterLeft_zero_le {p : FPhase} {rem : DWord} : formatterLeft p rem 0 ≤ 188 := by
  have hpad : padLeft 0 = 188 := rfl
  have hpad80 : pad80Left 0 = 188 := rfl
  unfold formatterLeft
  split <;> (try split) <;> omega

theorem formatterLeft_eq_zero {p : FPhase} {rem : DWord} {n : Nat} :
    formatterLeft p rem n = 0 ↔ p = .fIdle ∨ p = .fDone ∨ p = .fFault ∨ p = .fMsg ∧ rem ≠ 0#64 := by
  have hpad : padLeft n ≠ 0 := by unfold padLeft; split_ifs <;> omega
  have hpad80 : pad80Left n ≠ 0 := by unfold pad80Left; split_ifs <;> omega
  cases p <;> simp [formatterLeft, hpad, hpad80]

section
variable {s t u : State} {i : Instr}

theorem State.workLeft_of_idle (hc : s.cphase = .cIdle) :
    s.workLeft = formatterLeft s.fphase s.rem s.fill.val := by
  simp only [State.workLeft, State.compressLeft, hc, if_true, Nat.zero_add]
  rfl

theorem State.workLeft_of_running (hc : s.cphase ≠ .cIdle) :
    s.workLeft = s.compressLeft + formatterLeft s.fphase s.rem 0 := by
  simp only [State.workLeft, hc, if_false]
  rfl

theorem State.compressLeft_pos (hc : s.cphase ≠ .cIdle) : 0 < s.compressLeft := by
  unfold State.compressLeft
  split
  · next h => exact absurd h hc
  all_goals omega

theorem State.compressLeft_le : s.compressLeft ≤ 130 := by
  unfold State.compressLeft
  split <;> omega

theorem State.workLeft_eq_zero : s.workLeft = 0 ↔ s.quiescent = true := by
  rw [State.quiescent_iff]
  by_cases hc : s.cphase = .cIdle
  · rw [State.workLeft_of_idle hc, formatterLeft_eq_zero]
    simp [hc]
  · have := State.compressLeft_pos hc
    rw [State.workLeft_of_running hc]
    exact ⟨fun h => by omega, fun h => absurd h.1 hc⟩

theorem State.workLeft_le : s.workLeft ≤ 326 := by
  by_cases hc : s.cphase = .cIdle
  · rw [State.workLeft_of_idle hc]
    exact formatterLeft_le s.fill.is_le
  · have hcomp := s.compressLeft_le
    have hform := formatterLeft_zero_le (p := s.fphase) (rem := s.rem)
    rw [State.workLeft_of_running hc]
    omega

/-! ### One micro-step -/

/-- The work an append leaves: what the formatter has left, after a compression if the block is complete. -/
theorem State.appended_workLeft {x : Byte} (hf : s.fill.val < 64) (hc : s.cphase = .cIdle) :
    (s.appended x hf).workLeft =
      if s.fill.val = 63 then 130 + formatterLeft s.fphase s.rem 0
      else formatterLeft s.fphase s.rem (s.fill.val + 1) := by
  have hphase := s.appended_cphase x hf
  split_ifs with h
  · rw [if_pos (by omega)] at hphase
    rw [State.workLeft_of_running (by simp [hphase]), State.compressLeft, hphase, State.appended_t, if_pos (by omega)]
    simp
  · rw [if_neg (by omega), hc] at hphase
    rw [State.workLeft_of_idle hphase]
    simp

theorem State.appended_countable {x : Byte} (hf : s.fill.val < 64) (hc : s.cphase = .cIdle) :
    (s.appended x hf).Countable := by
  constructor <;> rw [State.appended_cphase, hc]
  · intro hidle
    by_cases h : s.fill.val + 1 = 64
    · simp [h] at hidle
    · rw [State.appended_fill]
      omega
  · split_ifs <;> simp

/-- An append reads no phase of the formatter. -/
theorem State.appended_withPhase {x : Byte} (hf : s.fill.val < 64) (p : FPhase) :
    { s.appended x hf with fphase := p } = State.appended { s with fphase := p } x hf := by
  unfold State.appended
  split_ifs <;> rfl

/-- While the compressor keeps running its own count is the one that goes down. -/
theorem State.workLeft_of_compressLeft (hs : s.cphase ≠ .cIdle) (ht : t.cphase ≠ .cIdle) (hf : t.fphase = s.fphase)
    (hr : t.rem = s.rem) (h : t.compressLeft + 1 = s.compressLeft) : t.workLeft + 1 = s.workLeft := by
  rw [State.workLeft_of_running hs, State.workLeft_of_running ht, hf, hr, ← h]
  omega

/-- The index goes up by one, or at the last one the next phase begins (R185, R187). -/
theorem State.advance_compressLeft {n : CPhase}
    (h : s.cphase = .cSched ∧ n = .cInit ∨ s.cphase = .cRound ∧ n = .cFeed) :
    (s.advance n).compressLeft + 1 = s.compressLeft := by
  rcases s.advance_cases n with ⟨hlast, he⟩ | ⟨hlast, he⟩
  · obtain ⟨hc, rfl⟩ | ⟨hc, rfl⟩ := h <;> simp [he, State.compressLeft, hc, hlast]
  · have hsucc : (s.t + 1#6).toNat = s.t.toNat + 1 := by bv_omega
    have hlt : s.t.toNat < 63 := by bv_omega
    obtain ⟨hc, rfl⟩ | ⟨hc, rfl⟩ := h <;> simp only [he, State.compressLeft, hc, hsucc] <;> omega

/-- `advance` enters the next phase at index 0 (R185, R187). -/
theorem State.advance_countable {n : CPhase} (hs : s.cphase ≠ .cIdle) (hn : n ≠ .cIdle) (hi : s.cphase ≠ .cInit) :
    (s.advance n).Countable := by
  refine ⟨fun hc => absurd hc (State.advance_running hs hn), fun hc => ?_⟩
  rcases s.advance_cases n with ⟨-, he⟩ | ⟨-, he⟩
  · simp [he]
  · exact absurd (by simpa [he] using hc) hi

theorem isTransaction_of_enabledIn (he : enabledIn i s) : isTransaction i = false := by
  cases i with
  | sched | loadv | round | feed | pad80 | padz | padlen | finish => rfl
  | _ => exact he.elim

/-- Every micro-operation does one of the micro-steps left (R211, R301). -/
theorem Performs.workLeft (h : Performs s i t) (he : enabledIn i s) (hs : s.Countable) :
    t.workLeft + 1 = s.workLeft := by
  have hbusy := not_quiescent_of_enabledIn he
  cases h with
  | sched hc =>
    exact State.workLeft_of_compressLeft (by simp [hc]) (State.advance_running (by simp [hc]) (by simp)) (by simp)
      (by simp) (State.advance_compressLeft (.inl ⟨hc, rfl⟩))
  | loadv hc =>
    refine State.workLeft_of_compressLeft (by simp [hc]) (by simp) rfl rfl ?_
    simp [State.compressLeft, hc, hs.index hc]
  | round hc =>
    exact State.workLeft_of_compressLeft (by simp [hc]) (State.advance_running (by simp [hc]) (by simp)) (by simp)
      (by simp) (State.advance_compressLeft (.inr ⟨hc, rfl⟩))
  | feed hc =>
    rw [State.workLeft_of_idle rfl, State.workLeft_of_running (by simp [hc]), State.compressLeft, hc, Nat.add_comm]
    rfl
  | pad80 he hf =>
    obtain ⟨hc, hp, hr⟩ := he
    rw [State.appended_withPhase hf, State.appended_workLeft (s := { s with fphase := .fPadz }) hf hc,
      State.workLeft_of_idle hc, hp, hr]
    exact (pad80Left_of_append hf).symm
  | padz he hf =>
    obtain ⟨hc, hp, h56⟩ := he
    rw [State.appended_workLeft hf hc, State.workLeft_of_idle hc, hp]
    exact (padLeft_of_append hf h56).symm
  | padlen he =>
    obtain ⟨hc, hp, h56⟩ := he
    rw [State.workLeft_of_idle hc, hp, h56]
    rfl
  | finish he =>
    obtain ⟨hc, hp⟩ := he
    rw [State.workLeft_of_idle hc, State.workLeft_of_idle (s := { s with fphase := .fDone }) hc, hp]
    rfl
  | busy hi | faulted hi | outOfTurn hi => simp [isTransaction_of_enabledIn he] at hi
  | read ha => simp [ha.1] at hbusy
  | _ => exact he.elim

theorem Performs.countable (h : Performs s i t) (he : enabledIn i s) (hs : s.Countable) : t.Countable := by
  have hbusy := not_quiescent_of_enabledIn he
  cases h with
  | sched hc | round hc => exact State.advance_countable (by simp [hc]) (by simp) (by simp [hc])
  | loadv | padlen => constructor <;> intro hc <;> cases hc
  | feed => exact ⟨fun _ => by simp, by simp⟩
  | pad80 he hf =>
    rw [State.appended_withPhase hf]
    exact State.appended_countable (s := { s with fphase := .fPadz }) hf he.1
  | padz he hf => exact State.appended_countable hf he.1
  | finish he => exact ⟨hs.room, hs.index⟩
  | busy hi | faulted hi | outOfTurn hi => simp [isTransaction_of_enabledIn he] at hi
  | read ha => simp [ha.1] at hbusy
  | _ => exact he.elim

/-- A micro-step of a busy engine performs the enabled micro-operation (R211). -/
theorem exists_microStep (hq : s.quiescent = false) (hs : s.Countable) :
    ∃ i t, enabledIn i s ∧ Performs s i t ∧ microStep s = .next t := by
  obtain ⟨i, he⟩ := exists_enabledIn hq
  obtain ⟨t, hp⟩ := exists_performs_of_enabledIn he hs.room
  exact ⟨i, t, he, hp, microStep_of_performs he hp⟩

/-! ### Runs -/

theorem microStep_of_quiescent (hq : s.quiescent = true) : microStep s = .next s := by
  rw [microStep, State.selected_of_quiescent hq]

theorem microSteps_of_quiescent (hq : s.quiescent = true) (k : Nat) : microSteps k s = .next s := by
  induction k with
  | zero => rfl
  | succ k ih =>
    rw [microSteps, microStep_of_quiescent hq]
    exact ih

/-- A first micro-step, and then the others. -/
theorem microSteps_of_microStep {n : Nat} (h : microStep s = .next t) : microSteps (n + 1) s = microSteps n t := by
  rw [microSteps, h]

/-- What every enabled micro-operation keeps, every run of micro-steps keeps. -/
theorem microSteps_keep {P : State → Prop} (hP : ∀ i u v, enabledIn i u → Performs u i v → P u → P v)
    {n : Nat} (h : microSteps n s = .next t) (hs : P s) : P t := by
  induction n generalizing s with
  | zero => cases h; exact hs
  | succ n ih =>
    rw [microSteps] at h
    cases hm : microStep s with
    | next u =>
      rw [hm] at h
      refine ih h ?_
      rw [microStep] at hm
      split at hm
      · next i hsel => exact hP i s u (State.selected_eq_some.1 hsel) (performs_of_exec hm) hs
      · cases hm; exact hs
    | fault r | refused r => simp [hm] at h

/-- The micro-steps left lead to quiescence (R212). -/
theorem exists_microSteps_workLeft (hs : s.Countable) :
    ∃ t, microSteps s.workLeft s = .next t ∧ t.quiescent = true := by
  induction hn : s.workLeft generalizing s with
  | zero => exact ⟨s, rfl, State.workLeft_eq_zero.1 hn⟩
  | succ n ih =>
    have hq : s.quiescent = false := by
      rw [← Bool.not_eq_true, ← State.workLeft_eq_zero]
      omega
    obtain ⟨i, u, he, hp, hu⟩ := exists_microStep hq hs
    have hwork := hp.workLeft he hs
    rw [microSteps_of_microStep hu]
    exact ih (hp.countable he hs) (by omega)

/-- Once quiescent a run stays where it is, so a longer run ends in the same state. -/
theorem microSteps_of_le {m n : Nat} (h : microSteps m s = .next t) (hq : t.quiescent = true) (hmn : m ≤ n) :
    microSteps n s = .next t := by
  obtain ⟨k, rfl⟩ := Nat.exists_eq_add_of_le hmn
  rw [microSteps_add k h, microSteps_of_quiescent hq]

/-- `run` is the run that makes the micro-steps left. -/
theorem exists_runToQuiescence (hs : s.Countable) :
    ∃ t, runToQuiescence s = .next t ∧ microSteps s.workLeft s = .next t ∧ t.quiescent = true := by
  obtain ⟨t, ht, hq⟩ := exists_microSteps_workLeft hs
  exact ⟨t, microSteps_of_le ht hq State.workLeft_le, ht, hq⟩

/-! ### The steps of the machine -/

/-- The step of a busy engine is its micro-operation and the delivery (R211, R213). -/
theorem step_of_enabledIn (hr : s.resetAsserted = false) (he : enabledIn i s) :
    step s = mapNext State.deliver (exec i s.tickReset) := by
  have hf : s.fetch = .run i s.tickReset := by simp [State.fetch, hr, selected_of_enabledIn he]
  rw [step, hf]

theorem State.tickReset_eq_self (hr : s.resetLine = []) : s.tickReset = s := by
  unfold State.tickReset
  rw [hr, List.tail_nil, ← hr]

theorem State.resetAsserted_of_nil (hr : s.resetLine = []) : s.resetAsserted = false := by
  simp [State.resetAsserted, hr]

/-- The steps of a busy engine are its micro-steps, with the delivery where they reach quiescence. -/
theorem steps_workLeft (hs : s.Countable) (hr : s.resetLine = []) :
    steps s.workLeft s.deliver = mapNext State.deliver (microSteps s.workLeft s) := by
  induction hn : s.workLeft generalizing s with
  | zero => rfl
  | succ n ih =>
    have hq : s.quiescent = false := by
      rw [← Bool.not_eq_true, ← State.workLeft_eq_zero]
      omega
    obtain ⟨i, u, he, hp, hu⟩ := exists_microStep hq hs
    have hwork := hp.workLeft he hs
    have hstep : step s = .next u.deliver := by
      rw [step_of_enabledIn (State.resetAsserted_of_nil hr) he, State.tickReset_eq_self hr, exec_of_performs hp,
        mapNext_next]
    rw [State.deliver_of_busy hq, microSteps_of_microStep hu, steps, hstep]
    exact ih (hp.countable he hs) (hp.keeps_resetLine.trans hr) (by omega)

/-- Every request word presented to a quiescent engine that meets R42 is answered, and R42 is kept (R214). -/
theorem exists_execRequest (q : BitVec 40) (hs : s.CoreInv) (hq : s.quiescent = true) :
    ∃ u, execRequest q s = .next u ∧ u.CoreInv ∧ u.resetLine = s.resetLine := by
  cases hd : decode q with
  | none =>
    refine ⟨_, execRequest_of_none hd hq, ?_, by simp⟩
    exact hs.congr (by simp) (by simp) (by simp) (by simp) (by simp) (by simp) (by simp) (by simp) (by simp)
  | some i =>
    have hi := isTransaction_of_encode (decode_eq_some_iff.1 hd)
    obtain ⟨u, hp⟩ := exists_performs_of_quiescent hi hq (hs.countable.room (State.cphase_of_quiescent hq))
    exact ⟨u, (execRequest_of_some s hd).trans (exec_of_performs hp), hp.keeps_coreInv hs, hp.keeps_resetLine⟩

end

end Sys2Proof.Machine

open Sys2Proof Sys2Proof.Machine

/-- Settles O54: the enabled micro-operation keeps R42 and does one of the micro-steps left. -/
theorem microStepsCountDown : Obligations.MicroStepsCountDown := by
  refine ⟨fun s => ⟨State.workLeft_eq_zero, State.workLeft_le⟩, fun s hs hq => ?_⟩
  obtain ⟨i, t, he, hp, ht⟩ := exists_microStep hq hs.countable
  exact ⟨t, ht, hp.keeps_coreInv hs, hp.workLeft he hs.countable⟩

/-- Settles O55: the micro-steps left lead to quiescence, and they are no more than 326. -/
theorem runReachesQuiescence : Obligations.RunReachesQuiescence := by
  intro s hs
  obtain ⟨t, hrun, ht, hq⟩ := exists_runToQuiescence hs.countable
  exact ⟨t, hrun, ht, hq, microSteps_keep (fun _ _ _ _ hp hu => hp.keeps_coreInv hu) ht hs⟩

/-- Settles O58: one step accepts the request, and the micro-steps left lead to the delivery. -/
theorem stepsCarryOutTheTransaction : Obligations.StepsCarryOutTheTransaction := by
  intro s q rest hs hq hline hreq
  have hcore : State.CoreInv { s with requests := rest } := hs.core.congr rfl rfl rfl rfl rfl rfl rfl rfl rfl
  obtain ⟨u, hu, huInv, huLine⟩ := exists_execRequest q hcore hq
  obtain ⟨t, hrun, ht, -⟩ := exists_runToQuiescence huInv.countable
  have hstep : step s = .next u.deliver := by
    rw [step_eq_execRequest (State.resetAsserted_of_nil hline) hq hreq, State.tickReset_eq_self hline, hu, mapNext_next]
  have hwork := u.workLeft_le
  refine ⟨u.workLeft + 1, t.deliver, by omega, by omega, ?_, ?_⟩
  · rw [transaction, hu]
    exact congrArg (mapNext State.deliver) hrun
  · rw [steps, hstep]
    exact (steps_workLeft huInv.countable (huLine.trans hline)).trans (congrArg (mapNext State.deliver) ht)

end

section
/-! SUPPORT. One step and one transaction: what each command, read and write does in each phase the port sees.  The last
theorems of the section settle the obligations. -/

namespace Sys2Proof.Machine

/-! ### Accepted and refused -/

section
variable {s : State} {i : Instr}

theorem State.quiescent_of_inIdlePhase (h : s.inIdlePhase) : s.quiescent = true :=
  State.quiescent_iff.2 (h.imp_right (Or.imp_right .inl))

/-- In an idle phase a transaction that the idle phases allow is accepted (R53). -/
theorem State.inIdlePhase.accepts (h : s.inIdlePhase) (hi : allowed i s.fphase = s.fphase.isIdle) : s.accepts i :=
  ⟨State.quiescent_of_inIdlePhase h, hi.trans (FPhase.isIdle_iff.2 h.2)⟩

/-- In an idle phase and while a byte is awaited a transaction that the working phases allow is accepted (R53). -/
theorem State.accepts_working (h : s.inIdlePhase ∨ s.awaitsByte) (hi : allowed i s.fphase = s.fphase.isWorking) :
    s.accepts i := by
  rw [State.accepts, hi, FPhase.isWorking_iff]
  obtain h | h := h
  · exact ⟨State.quiescent_of_inIdlePhase h, h.2.imp_right .inr⟩
  · exact ⟨State.quiescent_of_awaitsByte h, .inr (.inl h.2.1)⟩

/-- While a byte is awaited the transactions of R264 are answered `E_SEQ`, and nothing changes. -/
theorem exec_refusedInRun (hi : refusedInRun i = true) (h : s.awaitsByte) :
    exec i s = .next (s.answered .eSeq 0#32) := by
  have ht : isTransaction i = true := by
    cases i with
    | sched | loadv | round | feed | pad80 | padz | padlen | finish => cases hi
    | _ => rfl
  have hp : s.fphase = .fMsg := h.2.1
  have ha : allowed i s.fphase = false := by rw [hp, allowed_fMsg ht, hi]; rfl
  exact exec_of_performs (.outOfTurn ht (State.quiescent_of_awaitsByte h) (by simp [hp]) ha)

/-- In the fault phase every transaction but RDSTAT is answered `E_INIT`, and nothing changes (R142, R262). -/
theorem exec_inFault (hi : isTransaction i = true) (hne : i ≠ .rdstat) (h : s.inFault) :
    exec i s = .next (s.answered .eInit 0#32) :=
  exec_of_performs (.faulted hi h.quiescent h.2 hne)

/-- `LEN` is too long when it is at least 2^61 (R37). -/
theorem State.lenTooLong_iff : s.lenTooLong = true ↔ 2 ^ 61 ≤ s.LEN.toNat := by
  have h : s.LEN.extractLsb' 61 3 = 0#3 ↔ s.LEN.toNat < 2 ^ 61 := by
    rw [← BitVec.toNat_inj, BitVec.extractLsb'_toNat, BitVec.toNat_ofNat, Nat.shiftRight_eq_div_pow]
    omega
  rw [State.lenTooLong, decide_eq_true_iff, Ne, h, not_lt]

/-- A micro-operation in a state that does not enable it is refused by name (R211, log entry 8). -/
theorem exec_of_not_enabledIn (hi : isTransaction i = false) (he : ¬ enabledIn i s) :
    exec i s = .refused (.notEnabled (mnemonic i)) := by
  cases i with
  | sched | loadv | round | feed | pad80 | padz | padlen | finish =>
    exact if_neg fun h => he (by simpa [enabledIn] using h)
  | _ => cases hi

/-! ### Halves, bytes and Words as numbers -/

theorem lowHalf_eq_ofNat (x : DWord) : lowHalf x = BitVec.ofNat 32 x.toNat :=
  BitVec.eq_of_toNat_eq (by simp [lowHalf])

theorem highHalf_eq_ofNat (x : DWord) : highHalf x = BitVec.ofNat 32 (x.toNat / 2 ^ 32) :=
  BitVec.eq_of_toNat_eq (by simp [highHalf, Nat.shiftRight_eq_div_pow])

theorem toNat_append_eq_add {m n : Nat} (x : BitVec m) (y : BitVec n) :
    (x ++ y).toNat = x.toNat * 2 ^ n + y.toNat := by
  rw [BitVec.toNat_append, ← Nat.shiftLeft_add_eq_or_of_lt y.isLt, Nat.shiftLeft_eq]

theorem toNat_joinHalves (hi lo : Word) : (joinHalves hi lo).toNat = hi.toNat * 2 ^ 32 + lo.toNat :=
  toNat_append_eq_add hi lo

theorem toNat_be32 (b0 b1 b2 b3 : Byte) :
    (be32 b0 b1 b2 b3).toNat = b0.toNat * 2 ^ 24 + b1.toNat * 2 ^ 16 + b2.toNat * 2 ^ 8 + b3.toNat := by
  simp only [be32, toNat_append_eq_add]
  omega

/-- Byte `j` of a Word, the most significant one first (R11). -/
theorem getElem_bytesBe32 (w : Word) {j : Nat} (hj : j < 4) :
    (bytesBe32 w)[j] = BitVec.ofNat 8 (w.toNat / 256 ^ (3 - j)) := by
  apply BitVec.eq_of_toNat_eq
  interval_cases j <;> simp [bytesBe32, Nat.shiftRight_eq_div_pow]

/-- Word `i` of a block is written to the bytes `4i` to `4i + 3` and no other (R234). -/
theorem setBlockWord_get (b : Vector Byte 64) (i : Fin 16) (v : Word) (j : Fin 64) :
    (setBlockWord b i v).get j =
      if j.val / 4 = i.val then BitVec.ofNat 8 (v.toNat / 256 ^ (3 - j.val % 4)) else b.get j := by
  have hbyte : ∀ n (hn : n < 4), (bytesBe32 v)[n] = BitVec.ofNat 8 (v.toNat / 256 ^ (3 - n)) := fun _ =>
    getElem_bytesBe32 v
  simp only [setBlockWord, get_set_block, hbyte]
  by_cases h : j.val / 4 = i.val
  · obtain h4 | h4 | h4 | h4 : j.val % 4 = 0 ∨ j.val % 4 = 1 ∨ j.val % 4 = 2 ∨ j.val % 4 = 3 := by omega
    all_goals
      have hj : j.val = 4 * i.val + j.val % 4 := by omega
      rw [h4] at hj
      rw [if_pos h, h4]
      simp [hj]
  · have hne (n : Nat) (hn : n < 4) : j.val ≠ 4 * i.val + n := by omega
    have hne0 : j.val ≠ 4 * i.val := hne 0 (by omega)
    rw [if_neg (hne 3 (by omega)), if_neg (hne 2 (by omega)), if_neg (hne 1 (by omega)), if_neg hne0, if_neg h]

/-- The bytes of a Word put together from four bytes are those (R11). -/
theorem bytesBe32_be32 (b0 b1 b2 b3 : Byte) : bytesBe32 (be32 b0 b1 b2 b3) = #v[b0, b1, b2, b3] := by
  have h := toNat_be32 b0 b1 b2 b3
  have h1 := b1.isLt
  have h2 := b2.isLt
  have h3 := b3.isLt
  apply Vector.ext
  intro n hn
  rw [getElem_bytesBe32 _ hn]
  apply BitVec.eq_of_toNat_eq
  interval_cases n <;> simp [h] <;> omega

/-- Byte `j` of a block is one of the four bytes of its Word (R57). -/
theorem get_eq_byte_blockWord (b : Vector Byte 64) (i : Fin 16) (j : Fin 64) (h : j.val / 4 = i.val) :
    b.get j = BitVec.ofNat 8 ((blockWord b i).toNat / 256 ^ (3 - j.val % 4)) := by
  rw [← getElem_bytesBe32 _ (Nat.mod_lt _ (by decide))]
  simp only [blockWord, bytesBe32_be32, Vector.get_eq_getElem]
  obtain h4 | h4 | h4 | h4 : j.val % 4 = 0 ∨ j.val % 4 = 1 ∨ j.val % 4 = 2 ∨ j.val % 4 = 3 := by omega
  all_goals
    have hj : j.val = 4 * i.val + j.val % 4 := by omega
    rw [h4] at hj
    simp [hj]
/-- A Word of a block as the number its four bytes make (R57). -/
theorem blockWord_eq_ofNat (b : Vector Byte 64) (i : Fin 16) :
    blockWord b i = BitVec.ofNat 32
      ((b.get (Fin.ofNat 64 (4 * i.val))).toNat * 2 ^ 24 + (b.get (Fin.ofNat 64 (4 * i.val + 1))).toNat * 2 ^ 16
        + (b.get (Fin.ofNat 64 (4 * i.val + 2))).toNat * 2 ^ 8 + (b.get (Fin.ofNat 64 (4 * i.val + 3))).toNat) := by
  rw [blockWord, ← toNat_be32, BitVec.ofNat_toNat, BitVec.setWidth_eq]
  simp only [getElem_eq_get_ofNat]

/-! ### The edges of the phases -/

theorem FPhase.edge_self (p : FPhase) : p.edge p = true := by cases p <;> rfl

/-- `advance` stays in its phase or goes to the next one (R185, R187). -/
theorem State.advance_edge {p n : CPhase} (hp : s.cphase = p)
    (h : p = .cSched ∧ n = .cInit ∨ p = .cRound ∧ n = .cFeed) : CPhase.edge p (s.advance n).cphase = true := by
  rw [State.advance_eq, hp]
  obtain ⟨rfl, rfl⟩ | ⟨rfl, rfl⟩ := h <;> dsimp only <;> split <;> rfl

/-- An append leaves the compressor idle or starts it (R158). -/
theorem State.appended_edge {p : CPhase} {x : Byte} (hf : s.fill.val < 64) (hp : s.cphase = p) (hc : p = .cIdle) :
    CPhase.edge p (s.appended x hf).cphase = true := by
  rw [State.appended_cphase, hp, hc]
  split <;> rfl

/-- An instruction in its turn moves each phase along an edge or leaves it (R249). -/
theorem Performs.edges {t : State} (h : Performs s i t) (hs : s.quiescent = true ∨ enabledIn i s) :
    FPhase.edge s.fphase t.fphase = true ∧ CPhase.edge s.cphase t.cphase = true := by
  cases h with
  | busy hi hq =>
    obtain hs | he := hs
    · simp [hq] at hs
    · simp [isTransaction_of_enabledIn he] at hi
  | start ha | compress ha => obtain ⟨hc, hf | hf⟩ := ha.inIdlePhase rfl <;> simp [hc, hf, FPhase.edge, CPhase.edge]
  | abort ha =>
    obtain hf | hf | hf := FPhase.isWorking_iff.1 ha.2 <;> simp [ha.cphase, hf, FPhase.edge, CPhase.edge]
  | wrb ha hf =>
    exact ⟨by simp [FPhase.edge_self], State.appended_edge (s := { s with rem := s.rem - 1#64 }) hf rfl ha.cphase⟩
  | sched he => exact ⟨by simp [FPhase.edge_self], State.advance_edge rfl (.inl ⟨he, rfl⟩)⟩
  | round he => exact ⟨by simp [FPhase.edge_self], State.advance_edge rfl (.inr ⟨he, rfl⟩)⟩
  | loadv he | feed he => simp [he, FPhase.edge_self, CPhase.edge]
  | pad80 he hf => exact ⟨by simp [he.2.1, FPhase.edge], State.appended_edge hf rfl he.1⟩
  | padz he hf => exact ⟨by simp [FPhase.edge_self], State.appended_edge hf rfl he.1⟩
  | padlen he => simp [he.1, he.2.1, FPhase.edge, CPhase.edge]
  | finish he => simp [he.1, he.2, FPhase.edge, CPhase.edge]
  | faulted _ hq | outOfTurn _ hq => simp [FPhase.edge_self, State.cphase_of_quiescent hq, CPhase.edge]
  | tooLong ha | read ha | wrlenl ha | wrlenh ha | wrh ha | wrblk ha =>
    simp [FPhase.edge_self, ha.cphase, CPhase.edge]

theorem StepsTo.edges {t : State} (h : StepsTo s t) (hr : s.resetAsserted = false) :
    FPhase.edge s.fphase t.fphase = true ∧ CPhase.edge s.cphase t.cphase = true := by
  cases h with
  | reset hr' => simp [hr] at hr'
  | micro _ he hp => simpa using hp.edges (.inr (enabledIn_tickReset.2 he))
  | request _ hq _ _ hp => simpa using hp.edges (.inl hq)
  | illegal _ hq | wait _ hq =>
    simp [FPhase.edge_self, State.cphase_of_quiescent hq, CPhase.edge]

end

end Sys2Proof.Machine

open Sys2Proof Sys2Proof.Machine

/-- Settles O16: START is accepted in the idle phases, and `LEN` tells whether it begins a run. -/
theorem startBeginsADigestRun : Obligations.StartBeginsADigestRun := by
  refine fun s => ⟨fun h hl => ?_, fun h hl => ?_, exec_refusedInRun rfl, exec_inFault rfl (by decide)⟩
  · have hlen : s.lenTooLong = false := by rw [← Bool.not_eq_true, State.lenTooLong_iff]; omega
    exact exec_of_performs (.start (h.accepts rfl) hlen)
  · exact exec_of_performs (.tooLong (h.accepts rfl) (State.lenTooLong_iff.2 hl))

/-- Settles O17: ABORT is accepted in every working phase. -/
theorem abortAbandonsTheRun : Obligations.AbortAbandonsTheRun :=
  fun _ => ⟨fun h => exec_of_performs (.abort (State.accepts_working h rfl)), exec_inFault rfl (by decide)⟩

/-- Settles O18: COMPRESS is accepted in the idle phases. -/
theorem compressStartsTheCompressor : Obligations.CompressStartsTheCompressor :=
  fun _ => ⟨fun h => exec_of_performs (.compress (h.accepts rfl)), exec_refusedInRun rfl,
    exec_inFault rfl (by decide)⟩

/-- Settles O19: RDSTAT is allowed in every phase, and its word is the address alone. -/
theorem rdstatAnswersThePhase : Obligations.RdstatAnswersThePhase := by
  refine ⟨fun s hq => ⟨?_, ?_⟩, by decide, fun d => decode_read.trans (by decide)⟩
  · have hstatus : s.status = s.fphase.code.setWidth 32 := by cases h : s.fphase <;> rw [State.status, h] <;> rfl
    rw [← hstatus]
    exact exec_read ⟨hq, rfl⟩ rfl
  · obtain ⟨-, h | h | h | ⟨h, -⟩⟩ := State.quiescent_iff.1 hq <;> simp [h, FPhase.code]

/-- Settles O20: the four reads are accepted in every working phase. -/
theorem lengthAndCountReads : Obligations.LengthAndCountReads := by
  refine fun s => ⟨fun h => ?_, fun h => ?_⟩
  · simp only [← lowHalf_eq_ofNat, ← highHalf_eq_ofNat]
    exact ⟨exec_read (State.accepts_working h rfl) rfl, exec_read (State.accepts_working h rfl) rfl,
      exec_read (State.accepts_working h rfl) rfl, exec_read (State.accepts_working h rfl) rfl⟩
  · exact ⟨exec_inFault rfl (by decide) h, exec_inFault rfl (by decide) h, exec_inFault rfl (by decide) h,
      exec_inFault rfl (by decide) h⟩

/-- Settles O21: the two reads are accepted in the idle phases alone. -/
theorem hashAndBlockReads : Obligations.HashAndBlockReads := by
  refine fun s i k => ⟨fun h => ?_, fun h => ?_, fun h => ?_⟩
  · rw [← blockWord_eq_ofNat]
    exact ⟨exec_read (h.accepts rfl) rfl, exec_read (h.accepts rfl) rfl⟩
  · exact ⟨exec_refusedInRun rfl h, exec_refusedInRun rfl h⟩
  · exact ⟨exec_inFault rfl (by simp) h, exec_inFault rfl (by simp) h⟩

/-- Settles O23: joining the halves is arithmetic on `LEN`. -/
theorem lengthWritesReplaceOneHalf : Obligations.LengthWritesReplaceOneHalf := by
  refine fun s v => ⟨fun h => ?_, fun h => ?_, fun h => ?_⟩
  · have hlow : joinHalves (highHalf s.LEN) v = BitVec.ofNat 64 (s.LEN.toNat / 2 ^ 32 * 2 ^ 32 + v.toNat) := by
      apply BitVec.eq_of_toNat_eq
      rw [toNat_joinHalves, highHalf_eq_ofNat, BitVec.toNat_ofNat, BitVec.toNat_ofNat]
      omega
    have hhigh : joinHalves v (lowHalf s.LEN) = BitVec.ofNat 64 (v.toNat * 2 ^ 32 + s.LEN.toNat % 2 ^ 32) := by
      apply BitVec.eq_of_toNat_eq
      rw [toNat_joinHalves, lowHalf_eq_ofNat, BitVec.toNat_ofNat, BitVec.toNat_ofNat]
      omega
    rw [← hlow, ← hhigh]
    exact ⟨exec_of_performs (.wrlenl (h.accepts rfl)), exec_of_performs (.wrlenh (h.accepts rfl))⟩
  · exact ⟨exec_refusedInRun rfl h, exec_refusedInRun rfl h⟩
  · exact ⟨exec_inFault rfl (by simp) h, exec_inFault rfl (by simp) h⟩

/-- Settles O24: the Word written is read back at its index alone. -/
theorem wrhWritesOneWord : Obligations.WrhWritesOneWord := by
  refine fun s i v => ⟨fun h => ?_, exec_refusedInRun rfl, exec_inFault rfl (by simp)⟩
  refine ⟨_, exec_of_performs (.wrh (h.accepts rfl)), rfl, fun j => ?_⟩
  simp only [State.respond_H, Vector.get_eq_getElem, Vector.getElem_set, Fin.ext_iff, eq_comm (a := i.val)]

/-- Settles O25: the four bytes written are read back at their indices alone. -/
theorem wrblkWritesFourBytes : Obligations.WrblkWritesFourBytes := by
  refine fun s i v => ⟨fun h => ?_, exec_refusedInRun rfl, exec_inFault rfl (by simp)⟩
  exact ⟨_, exec_of_performs (.wrblk (h.accepts rfl)), rfl, setBlockWord_get s.B i v⟩

/-- Settles O26: WRB is an append that counts `rem` down, and only the phase of a run allows it. -/
theorem wrbAbsorbsOneByte : Obligations.WrbAbsorbsOneByte := by
  refine fun s b => ⟨fun h hf => ?_, fun h hf => ?_, fun h => ?_, exec_inFault rfl (by simp)⟩
  · have hlt : s.fill.val < 64 := by omega
    refine ⟨_, exec_of_performs (.wrb (State.accepts_wrb.2 h) hlt), ?_, ?_⟩
    · exact congrArg (fun t : State => t.respond .ok 0#32)
        (State.appended_frame (s := { s with rem := s.rem - 1#64 }) hlt)
    · exact State.appended_B_get (s := { s with rem := s.rem - 1#64 }) hlt
  · rw [exec_wrb, execWrb, State.transact_of_accepts _ (State.accepts_wrb.2 h),
      State.append_of_full (s := { s with rem := s.rem - 1#64 }) hf, mapNext]
  · have hp : s.fphase ≠ .fMsg ∧ s.fphase ≠ .fFault := by obtain ⟨-, hp | hp⟩ := h <;> simp [hp]
    exact exec_of_performs (.outOfTurn rfl (State.quiescent_of_inIdlePhase h) hp.2 (decide_eq_false hp.1))

/-- Settles O40: a busy engine leaves every request out, and a micro-operation checks that it is enabled. -/
theorem nothingRunsOutOfTurn : Obligations.NothingRunsOutOfTurn := by
  refine ⟨fun i s hi hq => exec_of_performs (.busy hi hq), fun q s hq => ?_, fun i s => exec_of_not_enabledIn⟩
  cases hd : decode q with
  | none => simp [execRequest, hd, hq]
  | some i =>
    have hi := isTransaction_of_encode (decode_eq_some_iff.1 hd)
    exact (execRequest_of_some s hd).trans (exec_of_performs (.busy hi hq))

/-- Settles O52: each instruction moves each phase along one edge or leaves it. -/
theorem phasesMoveAlongTheEdges : Obligations.PhasesMoveAlongTheEdges :=
  fun _ _ hr h => (stepsTo_of_step h).edges hr

/-- Settles O9: the selector chooses the enabled micro-operation. -/
theorem stepRunsTheEnabledMicroOp : Obligations.StepRunsTheEnabledMicroOp :=
  fun _ _ hr he => step_of_enabledIn hr he

/-- Settles O10: the step processes the request word, which is the instruction it decodes to. -/
theorem stepRunsTheDecodedRequest : Obligations.StepRunsTheDecodedRequest := by
  intro s q rest i hr hq hreq hd
  rw [step_eq_execRequest hr hq hreq, execRequest_of_some _ hd]
  rfl

/-- Settles O12: the decoder refuses the malformed word, and the refusal is delivered in the same step. -/
theorem malformedRequestIsRefused : Obligations.MalformedRequestIsRefused := by
  refine ⟨fun s q rest hr hq hreq hw => ?_, by decide⟩
  have hd : decode q = none := (illegalExactlyWhenMalformed q).2 hw
  have htaken : State.quiescent { s.tickReset with requests := rest } = true := hq
  rw [step_eq_execRequest hr hq hreq, execRequest_of_none hd htaken, mapNext_next, State.refuseIllegal_eq, State.raise,
    State.deliver_respond htaken]
  rfl

/-- Settles O13: with no request there is nothing to do but wait. -/
theorem quiescentEngineWaits : Obligations.QuiescentEngineWaits :=
  fun _ hr hq hreq => step_of_stepsTo (.wait hr hq hreq)

end

section
/-! SUPPORT. Programs as the host runs them, one transaction after the other, and the raw mode.  The last theorem of the
section settles the obligation. -/

namespace Sys2Proof.Machine

/-! ### A program, transaction by transaction -/

section
variable {s t u : State} {i : Instr} {p p' : List Instr}

theorem transactions_append {qs qs' : List (BitVec 40)} (h : transactions qs s = .next t) :
    transactions (qs ++ qs') s = transactions qs' t := by
  induction qs generalizing s with
  | nil =>
    cases h
    rfl
  | cons q qs ih =>
    rw [List.cons_append]
    rw [transactions] at h ⊢
    cases hq : transaction q s with
    | next v =>
      rw [hq] at h
      exact ih h
    | fault r | refused r => simp [hq] at h

theorem requestsOf_append : requestsOf (p ++ p') = requestsOf p ++ requestsOf p' := List.filterMap_append

/-- Every transaction has a request word, and the word decodes to it (R80, R90). -/
theorem exists_requestOf (hi : isTransaction i = true) : ∃ q, requestOf i = some q ∧ decode q = some i := by
  have hd := decodeEncoded_encode i
  cases i with
  | sched | loadv | round | feed | pad80 | padz | padlen | finish => cases hi
  | _ => exact ⟨_, rfl, hd⟩

/-- The first transaction of a program: its effect, the run to quiescence, the delivery (R213). -/
theorem transactions_cons (hi : isTransaction i = true) (he : exec i s = .next u) (hr : runToQuiescence u = .next t) :
    transactions (requestsOf (i :: p)) s = transactions (requestsOf p) t.deliver := by
  obtain ⟨q, hreq, hd⟩ := exists_requestOf hi
  have ht : transaction q s = .next t.deliver := by
    rw [transaction, execRequest_of_some s hd, he]
    exact congrArg (mapNext State.deliver) hr
  rw [requestsOf, List.filterMap_cons_some hreq, transactions, ht]
  rfl

/-- A transaction that leaves the engine quiescent is answered at once. -/
theorem transactions_cons_of_answered {c : RspCode} {w : Word} (hi : isTransaction i = true)
    (he : exec i s = .next (u.respond c w)) (hq : u.quiescent = true) :
    transactions (requestsOf (i :: p)) s =
      transactions (requestsOf p) { u with responses := u.responses ++ [⟨c, w⟩], pending := none } := by
  have hq' : (u.respond c w).quiescent = true := (State.quiescent_congr rfl rfl rfl).trans hq
  rw [transactions_cons hi he (microSteps_of_quiescent hq' 326), State.deliver_respond hq]

/-! ### Programs of raw writes -/

/-- The writes a raw-mode program loads the state and the block with (R245). -/
def isRawWrite : Instr → Bool
  | .wrh _ _ | .wrblk _ _ => true
  | _ => false

/-- What a raw write leaves in `H` (R232). -/
def rawWriteH (h : Vector Word 8) : Instr → Vector Word 8
  | .wrh k v => h.set k.val v
  | _ => h

/-- What a raw write leaves in `B` (R234). -/
def rawWriteB (b : Vector Byte 64) : Instr → Vector Byte 64
  | .wrblk k v => setBlockWord b k v
  | _ => b

/-- The state after a raw write and the delivery of its answer. -/
def State.rawWrite (s : State) (i : Instr) : State :=
  { s with
    H := rawWriteH s.H i
    B := rawWriteB s.B i
    pending := none
    responses := s.responses ++ [⟨.ok, 0#32⟩] }

theorem isTransaction_of_isRawWrite (hi : isRawWrite i = true) : isTransaction i = true := by
  cases i with
  | wrh | wrblk => rfl
  | _ => cases hi

theorem exec_rawWrite (hi : isRawWrite i = true) (hs : s.inIdlePhase) :
    exec i s = .next (State.respond { s with H := rawWriteH s.H i, B := rawWriteB s.B i } .ok 0#32) := by
  cases i with
  | wrh => exact exec_of_performs (.wrh (hs.accepts rfl))
  | wrblk => exact exec_of_performs (.wrblk (hs.accepts rfl))
  | _ => cases hi

/-- In an idle phase a program of raw writes writes `H` and `B` alone, and every answer is `(OK, 0)`. -/
theorem exists_transactions_rawWrites (hp : ∀ i ∈ p, isRawWrite i = true) (hs : s.inIdlePhase) :
    ∃ t, transactions (requestsOf p) s = .next t ∧ t = { s with
      H := p.foldl rawWriteH s.H
      B := p.foldl rawWriteB s.B
      pending := t.pending
      responses := s.responses ++ List.replicate p.length ⟨.ok, 0#32⟩ } := by
  induction p generalizing s with
  | nil => exact ⟨s, rfl, by simp⟩
  | cons i p ih =>
    obtain ⟨hi, hp⟩ := List.forall_mem_cons.1 hp
    have hfirst : transactions (requestsOf (i :: p)) s = transactions (requestsOf p) (s.rawWrite i) :=
      transactions_cons_of_answered (isTransaction_of_isRawWrite hi) (exec_rawWrite hi hs)
        (State.quiescent_of_inIdlePhase hs)
    obtain ⟨t, ht, he⟩ := ih (s := s.rawWrite i) hp hs
    refine ⟨t, hfirst.trans ht, he.trans ?_⟩
    simp [State.rawWrite, List.replicate_succ]

/-- Updates at a list of indices: an index that is updated takes its new value, any other keeps its old one. -/
theorem get_foldl_update {α ι κ γ : Type} [DecidableEq ι] {update : α → ι → α} {get : α → κ → γ} {index : κ → ι}
    {value : κ → γ} (h : ∀ a k j, get (update a k) j = if index j = k then value j else get a j) (l : List ι) (a : α)
    (j : κ) : get (l.foldl update a) j = if index j ∈ l then value j else get a j := by
  induction l generalizing a with
  | nil => simp
  | cons k l ih =>
    rw [List.foldl_cons, ih, h]
    by_cases hl : index j ∈ l <;> simp [hl]

/-- LDSTATE loads every Word of the state (R97). -/
theorem foldl_rawWriteH_ldState (h h' : Vector Word 8) : (ldState h).foldl rawWriteH h' = h := by
  have hget (a : Vector Word 8) (k j : Fin 8) :
      (rawWriteH a (.wrh k (h.get k))).get j = if j = k then h.get j else a.get j := by
    simp only [rawWriteH, Vector.get_eq_getElem, Vector.getElem_set, Fin.ext_iff, eq_comm (a := k.val)]
    split_ifs with hk
    · simp [hk]
    · rfl
  rw [ldState, List.foldl_map]
  refine Vector.ext fun j hj => ?_
  exact (get_foldl_update (index := id) hget _ h' ⟨j, hj⟩).trans (if_pos (List.mem_finRange _))

/-- The Word of a block that a byte belongs to (R57). -/
def wordIndex (j : Fin 64) : Fin 16 := ⟨j.val / 4, by omega⟩

/-- LDBLOCK loads every byte of a block that has the Words given (R57, R97). -/
theorem foldl_rawWriteB_ldBlock {b : Vector Byte 64} {w : Vector Word 16} (hw : ∀ k : Fin 16, blockWord b k = w.get k)
    (b' : Vector Byte 64) : (ldBlock w).foldl rawWriteB b' = b := by
  have hget (a : Vector Byte 64) (k : Fin 16) (j : Fin 64) :
      (rawWriteB a (.wrblk k (w.get k))).get j = if wordIndex j = k then b.get j else a.get j := by
    simp only [rawWriteB, setBlockWord_get, wordIndex, Fin.ext_iff, ← hw]
    split_ifs with hk
    · exact (get_eq_byte_blockWord b k j hk).symm
    · rfl
  rw [ldBlock, List.foldl_map]
  refine Vector.ext fun j hj => ?_
  exact (get_foldl_update hget _ b' ⟨j, hj⟩).trans (if_pos (List.mem_finRange _))

theorem foldl_rawWriteH_ldBlock (w : Vector Word 16) (h : Vector Word 8) : (ldBlock w).foldl rawWriteH h = h := by
  rw [ldBlock, List.foldl_map]
  exact List.foldl_fixed _

theorem isRawWrite_of_mem {h : Vector Word 8} {w : Vector Word 16} (hi : i ∈ ldState h ++ ldBlock w) :
    isRawWrite i = true := by
  obtain hi | hi := List.mem_append.1 hi <;> obtain ⟨k, -, rfl⟩ := List.mem_map.1 hi <;> rfl

theorem length_ldState (h : Vector Word 8) : (ldState h).length = 8 := by simp [ldState]

theorem length_ldBlock (w : Vector Word 16) : (ldBlock w).length = 16 := by simp [ldBlock]

/-! ### COMPRESS as a whole transaction -/

/-- A compression started in `F_IDLE` is all that `run` has to do (R189, R212). -/
theorem exists_run_callCompress (hp : s.fphase = .fIdle) :
    ∃ u, runToQuiescence s.callCompress = .next u ∧ u.quiescent = true ∧ u = { s with
      H := compress s.K s.H s.B
      V := u.V
      W := u.W
      blkcnt := s.blkcnt + 1#64
      fill := 0
      t := 0#6
      cphase := .cIdle } := by
  obtain ⟨u, hu, he, -⟩ := compressionTakes130MicroSteps s
  have hq : u.quiescent = true := by
    rw [he]
    exact State.quiescent_iff.2 ⟨rfl, .inl hp⟩
  refine ⟨u, microSteps_of_le hu hq (by decide), hq, ?_⟩
  rw [he]

end

end Sys2Proof.Machine

open Sys2Proof Sys2Proof.Machine

/-- Settles O59: the writes load `H` and `B`, and COMPRESS does what one compression does. -/
theorem rawModeComputesCompress : Obligations.RawModeComputesCompress := by
  intro s h b w hs hw
  obtain ⟨t, ht, he⟩ := exists_transactions_rawWrites (p := ldState h ++ ldBlock w) (fun _ => isRawWrite_of_mem) hs
  simp only [List.foldl_append, List.length_append, foldl_rawWriteH_ldState, foldl_rawWriteH_ldBlock,
    foldl_rawWriteB_ldBlock hw, length_ldState, length_ldBlock] at he
  have hidle : t.inIdlePhase := by rw [he]; exact hs
  obtain ⟨u, hu, hq, hue⟩ := exists_run_callCompress
    (s := State.respond { t with fphase := .fIdle, fill := 64 } .ok 0#32) rfl
  have hcompress : exec .compress t = .next _ := exec_of_performs (.compress (hidle.accepts rfl))
  have hlast := transactions_cons (p := []) rfl hcompress hu
  have hH : t.H = h := congrArg State.H he
  have hB : t.B = b := congrArg State.B he
  have hK : t.K = s.K := by rw [he]
  have hcount : t.blkcnt = s.blkcnt := by rw [he]
  have hresp : t.responses = s.responses ++ List.replicate 24 ⟨.ok, 0#32⟩ := congrArg State.responses he
  refine ⟨u.deliver, ?_, ?_, ?_, ?_, ?_, ?_, ?_⟩
  · rw [requestsOf_append, transactions_append ht]
    exact hlast
  · simpa [hH, hB, hK] using congrArg State.H hue
  · simpa [hB] using congrArg State.B hue
  · simpa using congrArg State.fphase hue
  · simpa using congrArg State.cphase hue
  · simpa [hcount] using congrArg State.blkcnt hue
  · have hpend : u.pending = some ⟨.ok, 0#32⟩ := congrArg State.pending hue
    have hkept : u.responses = t.responses := (congrArg State.responses hue).trans rfl
    rw [State.deliver_responses hq, hpend, hkept, hresp, List.append_assoc]
    rfl

end

section
/-! SUPPORT. A digest run: the bytes of the padded message are absorbed one by one, whether the host or the formatter
gives them, and the last block ends in the digest.  The last theorem of the section settles the obligation. -/

namespace Sys2Proof.Machine

/-! ### The bytes of a padded message -/

section
variable {m : List Byte} {n : Nat}

theorem pad_getD_message (hn : n < m.length) : (pad m).getD n 0#8 = m[n] := by
  rw [pad, List.append_assoc, List.append_assoc, List.getD_append _ _ _ _ hn, List.getD_eq_getElem _ _ hn]

theorem pad_getD_one : (pad m).getD m.length 0#8 = 0x80#8 := by
  rw [pad, List.append_assoc, List.append_assoc, List.getD_append_right _ _ _ _ le_rfl, Nat.sub_self]
  rfl

theorem pad_getD_zero (hn : n < zeroBytes m.length) : (pad m).getD (m.length + 1 + n) 0#8 = 0#8 := by
  rw [pad, List.append_assoc, List.getD_append_right _ _ _ _ (by simp), List.getD_append _ _ _ _ (by simpa using hn)]
  simp

theorem pad_getD_length (hn : n < 8) : (pad m).getD (m.length + 1 + zeroBytes m.length + n) 0#8 =
    (bytesBe64 (BitVec.ofNat 64 (8 * m.length)))[n] := by
  have hlen : (m ++ [0x80#8] ++ List.replicate (zeroBytes m.length) 0#8).length = m.length + 1 + zeroBytes m.length := by
    simp only [List.length_append, List.length_singleton, List.length_replicate]
  rw [pad, List.getD_append_right _ _ _ _ (by omega), hlen, Nat.add_sub_cancel_left,
    List.getD_eq_getElem _ _ (by simpa using hn), Vector.getElem_toList]

end

/-! ### The blocks absorbed -/

/-- The hash state after the first `n` blocks of a byte sequence (R240). -/
def hashBlocks (k : Vector Word 64) (h0 : Vector Word 8) (p : List Byte) (n : Nat) : Vector Word 8 :=
  ((List.range n).map (blockAt p)).foldl (compress k) h0

theorem hashBlocks_succ (k : Vector Word 64) (h0 : Vector Word 8) (p : List Byte) (n : Nat) :
    hashBlocks k h0 p (n + 1) = compress k (hashBlocks k h0 p n) (blockAt p n) := by
  simp [hashBlocks, List.range_succ]

theorem blockAt_get (p : List Byte) (n : Nat) (j : Fin 64) : (blockAt p n).get j = p.getD (64 * n + j.val) 0#8 :=
  Vector.get_ofFn _ j

/-- The first `n` bytes of the sequence `p` are absorbed: its whole blocks are hashed into `H` and counted, and the bytes
after them stand in the buffer (R42 I3, R152). -/
structure State.Absorbed (s : State) (p : List Byte) (n : Nat) : Prop where
  idle : s.cphase = .cIdle
  fill : s.fill.val = n % 64
  count : s.blkcnt = BitVec.ofNat 64 (n / 64)
  hash : s.H = hashBlocks s.K s.H0 p (n / 64)
  buffer : ∀ j : Fin 64, j.val < n % 64 → s.B.get j = p.getD (64 * (n / 64) + j.val) 0#8

/-! ### Reaching a state by micro-steps -/

/-- Some number of micro-steps leads from `s` to `t`. -/
def Reaches (s t : State) : Prop := ∃ n, microSteps n s = .next t

section
variable {s t u : State} {i : Instr} {p : List Byte} {n : Nat}

theorem Reaches.refl : Reaches s s := ⟨0, rfl⟩

theorem Reaches.trans (hst : Reaches s t) (htu : Reaches t u) : Reaches s u := by
  obtain ⟨j, hj⟩ := hst
  obtain ⟨k, hk⟩ := htu
  exact ⟨j + k, (microSteps_add k hj).trans hk⟩

/-- A micro-operation, and what is reached after it. -/
theorem Reaches.of_performs (he : enabledIn i s) (hp : Performs s i t) (htu : Reaches t u) : Reaches s u :=
  Reaches.trans ⟨1, microSteps_succ (n := 0) rfl (microStep_of_performs he hp)⟩ htu

/-- `run` ends in the quiescent state that micro-steps reach. -/
theorem Reaches.runToQuiescence (h : Reaches s t) (hq : t.quiescent = true) (hs : s.Countable) :
    runToQuiescence s = .next t := by
  obtain ⟨n, hn⟩ := h
  obtain ⟨u, hrun, hu, huq⟩ := exists_runToQuiescence hs
  have hun := microSteps_of_le hu huq (Nat.le_max_left _ n)
  have htn := microSteps_of_le hn hq (Nat.le_max_right s.workLeft n)
  rw [hun] at htn
  cases htn
  exact hrun

/-- The registers no micro-operation writes have the same contents. -/
structure State.SameForMicro (s t : State) : Prop where
  len : t.LEN = s.LEN
  rem : t.rem = s.rem
  K : t.K = s.K
  H0 : t.H0 = s.H0
  pending : t.pending = s.pending
  responses : t.responses = s.responses

theorem Performs.sameForMicro (hp : Performs s i t) (he : enabledIn i s) : s.SameForMicro t where
  len := by
    by_contra hne
    obtain ⟨v, rfl⟩ | ⟨v, rfl⟩ := hp.writers_LEN hne <;> exact he
  rem := by
    by_contra hne
    obtain rfl | rfl | ⟨b, rfl⟩ := hp.writers_rem hne <;> exact he
  K := hp.keeps_K
  H0 := hp.keeps_H0
  pending := hp.pending_of_enabledIn he
  responses := hp.keeps_responses

theorem State.SameForMicro.trans (h : s.SameForMicro t) (h' : t.SameForMicro u) : s.SameForMicro u :=
  ⟨h'.len.trans h.len, h'.rem.trans h.rem, h'.K.trans h.K, h'.H0.trans h.H0, h'.pending.trans h.pending,
    h'.responses.trans h.responses⟩

theorem Reaches.sameForMicro (h : Reaches s t) : s.SameForMicro t := by
  obtain ⟨n, hn⟩ := h
  exact microSteps_keep (P := s.SameForMicro) (fun _ _ _ he hp hu => hu.trans (hp.sameForMicro he)) hn
    ⟨rfl, rfl, rfl, rfl, rfl, rfl⟩

/-! ### One byte, one block -/

/-- A full buffer handed to the compressor becomes one more block absorbed (R159, R189). -/
theorem exists_reaches_block (hB : s.B = blockAt p n) (hH : s.H = hashBlocks s.K s.H0 p n)
    (hc : s.blkcnt = BitVec.ofNat 64 n) :
    ∃ u, Reaches s.callCompress u ∧ u.Absorbed p (64 * (n + 1)) ∧ u.B = s.B ∧ u.fphase = s.fphase := by
  obtain ⟨u, hu, he, -⟩ := compressionTakes130MicroSteps s
  have hdiv : 64 * (n + 1) / 64 = n + 1 := by omega
  have hmod : 64 * (n + 1) % 64 = 0 := by omega
  have habsorbed : u.Absorbed p (64 * (n + 1)) :=
    { idle := by rw [he]
      fill := by rw [he, hmod]; rfl
      count := by rw [he, hdiv, hc, BitVec.ofNat_add]
      hash := by rw [he, hdiv, hashBlocks_succ, ← hH, ← hB]
      buffer := fun j hj => by omega }
  exact ⟨u, ⟨130, hu⟩, habsorbed, by rw [he], by rw [he]⟩

/-- An append absorbs one more byte, through a compression when it completes the block (R158). -/
theorem exists_reaches_append {x : Byte} (h : s.Absorbed p n) (hf : s.fill.val < 64) (hx : p.getD n 0#8 = x) :
    ∃ u, Reaches (s.appended x hf) u ∧ u.Absorbed p (n + 1) ∧ u.fphase = s.fphase := by
  have hbytes (j : Fin 64) (hj : j.val < n % 64 + 1) :
      (s.putByte x hf).B.get j = p.getD (64 * (n / 64) + j.val) 0#8 := by
    rw [State.putByte_B, get_set_block, h.fill]
    split_ifs with hn
    · rw [hn, Nat.div_add_mod, hx]
    · exact h.buffer j (by omega)
  by_cases hlast : n % 64 = 63
  · have hB : (s.putByte x hf).B = blockAt p (n / 64) :=
      Vector.ext fun j hj => (hbytes ⟨j, hj⟩ (by simp; omega)).trans (blockAt_get p _ ⟨j, hj⟩).symm
    obtain ⟨u, hu, ha, -, hp⟩ := exists_reaches_block hB h.hash h.count
    rw [State.appended, if_pos (by rw [h.fill, hlast])]
    exact ⟨u, hu, by rwa [show n + 1 = 64 * (n / 64 + 1) by omega], hp⟩
  · have hdiv : (n + 1) / 64 = n / 64 := by omega
    have hmod : (n + 1) % 64 = n % 64 + 1 := by omega
    rw [State.appended, if_neg (by rw [h.fill]; omega)]
    refine ⟨_, .refl, ⟨h.idle, ?_, ?_, ?_, ?_⟩, rfl⟩
    · exact (congrArg (· + 1) h.fill).trans hmod.symm
    · rw [State.putByte_blkcnt, hdiv, h.count]
    · rw [State.putByte_H, State.putByte_K, State.putByte_H0, hdiv, h.hash]
    · rw [hdiv, hmod]
      exact hbytes

/-! ### The padding -/

section
variable {m : List Byte}

/-- The run of the message `m` after `n` of its bytes, in `F_MSG` with the compressor idle (R42 I3). -/
structure State.Hashing (s : State) (m : List Byte) (n : Nat) : Prop where
  phase : s.fphase = .fMsg
  len : s.LEN = BitVec.ofNat 64 m.length
  rem : s.rem = BitVec.ofNat 64 (m.length - n)
  rom : s.romOK = true
  absorbed : s.Absorbed (pad m) n

/-- The end of the run of the message `m`: every block of the padded message is absorbed (R164, R242). -/
structure State.Digested (s : State) (m : List Byte) : Prop where
  phase : s.fphase = .fDone
  len : s.LEN = BitVec.ofNat 64 m.length
  rem : s.rem = 0#64
  rom : s.romOK = true
  absorbed : s.Absorbed (pad m) (64 * blockCount m.length)
  last : s.B = blockAt (pad m) (blockCount m.length - 1)

theorem State.Absorbed.congr (h : s.Absorbed p n) (hc : t.cphase = s.cphase) (hfill : t.fill = s.fill)
    (hcnt : t.blkcnt = s.blkcnt) (hH : t.H = s.H) (hK : t.K = s.K) (hH0 : t.H0 = s.H0) (hB : t.B = s.B) :
    t.Absorbed p n :=
  ⟨hc ▸ h.idle, hfill ▸ h.fill, hcnt ▸ h.count, by rw [hH, hK, hH0, h.hash], by rw [hB]; exact h.buffer⟩

/-- PAD80 absorbs the byte 0x80 (R161). -/
theorem exists_reaches_pad80 (hp : s.fphase = .fMsg) (hr : s.rem = 0#64) (h : s.Absorbed (pad m) m.length) :
    ∃ u, Reaches s u ∧ u.Absorbed (pad m) (m.length + 1) ∧ u.fphase = .fPadz := by
  have he : enabledIn .pad80 s := ⟨h.idle, hp, hr⟩
  have hf : s.fill.val < 64 := by rw [h.fill]; omega
  have h' : State.Absorbed { s with fphase := .fPadz } (pad m) m.length := h.congr rfl rfl rfl rfl rfl rfl rfl
  obtain ⟨u, hu, ha, hpu⟩ := exists_reaches_append h' hf pad_getD_one
  exact ⟨u, .of_performs he (.pad80 he hf) (State.appended_withPhase hf .fPadz ▸ hu), ha, hpu⟩

/-- PADZ absorbs one zero byte (R162). -/
theorem exists_reaches_padz {z : Nat} (hz : z < zeroBytes m.length) (hp : s.fphase = .fPadz)
    (h : s.Absorbed (pad m) (m.length + 1 + z)) :
    ∃ u, Reaches s u ∧ u.Absorbed (pad m) (m.length + 1 + (z + 1)) ∧ u.fphase = .fPadz := by
  have h56 : s.fill.val ≠ 56 := fun h56 => (zeroBytes_le (h.fill ▸ h56)).not_gt hz
  have he : enabledIn .padz s := ⟨h.idle, hp, h56⟩
  have hf : s.fill.val < 64 := by rw [h.fill]; omega
  obtain ⟨u, hu, ha, hpu⟩ := exists_reaches_append h hf (pad_getD_zero hz)
  exact ⟨u, .of_performs he (.padz he hf) hu, ha, hpu.trans hp⟩

/-- The zero fill, byte by byte. -/
theorem exists_reaches_zeros (hp : s.fphase = .fPadz) (h : s.Absorbed (pad m) (m.length + 1)) {z : Nat}
    (hz : z ≤ zeroBytes m.length) :
    ∃ u, Reaches s u ∧ u.Absorbed (pad m) (m.length + 1 + z) ∧ u.fphase = .fPadz := by
  induction z with
  | zero => exact ⟨s, .refl, h, hp⟩
  | succ z ih =>
    obtain ⟨u, hu, ha, hpu⟩ := ih (by omega)
    obtain ⟨v, hv, hav, hpv⟩ := exists_reaches_padz hz hpu ha
    exact ⟨v, hu.trans hv, hav, hpv⟩

/-- The padded message up to its length field ends at index 56 of its last block (R151). -/
theorem length_before_length_field (m : List Byte) :
    m.length + 1 + zeroBytes m.length = 64 * (blockCount m.length - 1) + 56 ∧ 0 < blockCount m.length := by
  have h := length_pad m
  rw [length_pad_eq_blocks] at h
  have hpos : 0 < blockCount m.length := Nat.succ_pos _
  omega

/-- The buffer that PADLEN completes is the last block of the padded message (R163). -/
theorem setLengthField_eq_blockAt (hm : m.length < 2 ^ 61) (hlen : s.LEN = BitVec.ofNat 64 m.length)
    (h : s.Absorbed (pad m) (m.length + 1 + zeroBytes m.length)) :
    setLengthField s.B (bitLength s.LEN) = blockAt (pad m) (blockCount m.length - 1) := by
  obtain ⟨hn, -⟩ := length_before_length_field m
  have hnat : s.LEN.toNat = m.length := by rw [hlen, BitVec.toNat_ofNat]; omega
  suffices hget : ∀ j : Fin 64, (setLengthField s.B (bitLength s.LEN)).get j =
      (blockAt (pad m) (blockCount m.length - 1)).get j from Vector.ext fun j hj => hget ⟨j, hj⟩
  intro j
  rw [setLengthField_get, blockAt_get, bitLength_eq_ofNat, hnat]
  split_ifs with h56
  · rw [← pad_getD_length (by omega), hn]
    congr 1
    omega
  · have hbuf := h.buffer j (by omega)
    rwa [show (m.length + 1 + zeroBytes m.length) / 64 = blockCount m.length - 1 by omega] at hbuf

theorem State.romOK_of_sameForMicro (h : s.SameForMicro t) : t.romOK = s.romOK := State.romOK_congr h.K h.H0

/-- PADLEN absorbs the length field, and FINISH ends the run (R163, R164). -/
theorem exists_reaches_digested (hm : m.length < 2 ^ 61) (hp : s.fphase = .fPadz) (hr : s.rem = 0#64)
    (hlen : s.LEN = BitVec.ofNat 64 m.length) (hrom : s.romOK = true)
    (h : s.Absorbed (pad m) (m.length + 1 + zeroBytes m.length)) : ∃ u, Reaches s u ∧ u.Digested m := by
  obtain ⟨hn, hpos⟩ := length_before_length_field m
  have hB := setLengthField_eq_blockAt hm hlen h
  have he : enabledIn .padlen s := ⟨h.idle, hp, by rw [h.fill]; omega⟩
  have hdiv : (m.length + 1 + zeroBytes m.length) / 64 = blockCount m.length - 1 := by omega
  obtain ⟨u, hu, ha, hBu, hpu⟩ := exists_reaches_block
    (s := { s with B := setLengthField s.B (bitLength s.LEN), fill := 64, fphase := .fLast })
    hB (hdiv ▸ h.hash) (hdiv ▸ h.count)
  rw [Nat.sub_add_cancel hpos] at ha
  have hsu : Reaches s u := .of_performs he (.padlen he) hu
  have hef : enabledIn .finish u := ⟨ha.idle, hpu⟩
  have hsame := hsu.sameForMicro
  refine ⟨{ u with fphase := .fDone }, hsu.trans (.of_performs hef (.finish hef) .refl), rfl, hsame.len.trans hlen,
    hsame.rem.trans hr, ?_, ha.congr rfl rfl rfl rfl rfl rfl rfl, hBu.trans hB⟩
  exact (State.romOK_of_sameForMicro hsame).trans hrom

/-- The whole padding: from the last message byte to the end of the run (R160 to R164). -/
theorem State.Hashing.exists_reaches_digested (hm : m.length < 2 ^ 61) (h : s.Hashing m m.length) :
    ∃ u, Reaches s u ∧ u.Digested m := by
  have hrem : s.rem = 0#64 := by rw [h.rem, Nat.sub_self]
  obtain ⟨v, hv, hav, hpv⟩ := exists_reaches_pad80 h.phase hrem h.absorbed
  obtain ⟨w, hw, haw, hpw⟩ := exists_reaches_zeros hpv hav le_rfl
  have hsw := hv.trans hw
  have hsame := hsw.sameForMicro
  obtain ⟨u, hu, hdu⟩ := Machine.exists_reaches_digested hm hpw (hsame.rem.trans hrem) (hsame.len.trans h.len)
    ((State.romOK_of_sameForMicro hsame).trans h.rom) haw
  exact ⟨u, hsw.trans hu, hdu⟩

/-! ### The run as the host sees it -/

/-- What the host meets after `n` bytes of the message `m`: the next byte is awaited, or the digest is ready. -/
def State.AfterBytes (s : State) (m : List Byte) (n : Nat) : Prop :=
  n < m.length ∧ s.Hashing m n ∨ n = m.length ∧ s.Digested m

theorem State.Hashing.awaitsByte (hm : m.length < 2 ^ 61) (hn : n < m.length) (h : s.Hashing m n) : s.awaitsByte := by
  refine ⟨h.absorbed.idle, h.phase, fun h0 => ?_⟩
  have := congrArg BitVec.toNat (h.rem.symm.trans h0)
  rw [BitVec.toNat_ofNat, Nat.mod_eq_of_lt (by omega)] at this
  simp at this
  omega

theorem State.Digested.quiescent (h : s.Digested m) : s.quiescent = true :=
  State.quiescent_iff.2 ⟨h.absorbed.idle, .inr (.inl h.phase)⟩

theorem State.AfterBytes.quiescent (hm : m.length < 2 ^ 61) (h : s.AfterBytes m n) : s.quiescent = true := by
  obtain ⟨hn, h⟩ | ⟨-, h⟩ := h
  · exact State.quiescent_of_awaitsByte (h.awaitsByte hm hn)
  · exact h.quiescent

/-- The host's view reads no list of the port. -/
theorem State.AfterBytes.deliver (h : s.AfterBytes m n) : s.deliver.AfterBytes m n := by
  have hrom : s.deliver.romOK = s.romOK := State.romOK_congr (by simp) (by simp)
  have ha {k : Nat} (h : s.Absorbed (pad m) k) : s.deliver.Absorbed (pad m) k :=
    h.congr (by simp) (by simp) (by simp) (by simp) (by simp) (by simp) (by simp)
  obtain ⟨hn, h⟩ | ⟨hn, h⟩ := h
  · exact .inl ⟨hn, by simpa using h.phase, by simpa using h.len, by simpa using h.rem, hrom.trans h.rom,
      ha h.absorbed⟩
  · exact .inr ⟨hn, by simpa using h.phase, by simpa using h.len, by simpa using h.rem, hrom.trans h.rom,
      ha h.absorbed, by simpa using h.last⟩

/-- Micro-steps bring the run to what the host meets next: after the last byte, through the padding. -/
theorem State.Hashing.exists_reaches_afterBytes (hm : m.length < 2 ^ 61) (hn : n ≤ m.length) (h : s.Hashing m n) :
    ∃ u, Reaches s u ∧ u.AfterBytes m n := by
  obtain hn | rfl := hn.lt_or_eq
  · exact ⟨s, .refl, .inl ⟨hn, h⟩⟩
  · obtain ⟨u, hu, hd⟩ := h.exists_reaches_digested hm
    exact ⟨u, hu, .inr ⟨rfl, hd⟩⟩

/-- `i` is answered `(OK, 0)` and takes `s` to `t`, whatever program follows. -/
structure AnsweredOk (i : Instr) (s t : State) : Prop where
  next : ∀ p, transactions (requestsOf (i :: p)) s = transactions (requestsOf p) t
  responses : t.responses = s.responses ++ [⟨.ok, 0#32⟩]

/-- A transaction of the run: its answer waits while micro-steps lead to what the host meets next. -/
theorem State.AfterBytes.answeredOk (hm : m.length < 2 ^ 61) (ha : u.AfterBytes m n) (hi : isTransaction i = true)
    (he : exec i s = .next t) (ht : t.Countable) (hpend : t.pending = some ⟨.ok, 0#32⟩)
    (hresp : t.responses = s.responses) (hu : Reaches t u) : AnsweredOk i s u.deliver := by
  have hq := ha.quiescent hm
  have hsame := hu.sameForMicro
  refine ⟨fun p => transactions_cons hi he (hu.runToQuiescence hq ht), ?_⟩
  rw [State.deliver_responses hq, hsame.pending, hpend, hsame.responses, hresp]
  rfl

/-- The state in which an accepted WRB appends its byte: the byte is counted and the answer is ready (R225). -/
def State.takeByte (s : State) : State := { s with rem := s.rem - 1#64, pending := some ⟨.ok, 0#32⟩ }

theorem exec_wrb_of_awaitsByte {b : Byte} (h : s.awaitsByte) (hf : s.takeByte.fill.val < 64) :
    exec (.wrb b) s = .next (s.takeByte.appended b hf) := by
  refine (exec_of_performs (.wrb (State.accepts_wrb.2 h) hf)).trans (congrArg Host.Outcome.next ?_)
  unfold State.appended
  split <;> rename_i h64
  · rw [if_pos (show s.takeByte.fill.val + 1 = 64 from h64)]; rfl
  · rw [if_neg (show ¬ s.takeByte.fill.val + 1 = 64 from h64)]; rfl

/-- WRB absorbs the next byte of the message (R225). -/
theorem State.Hashing.exists_answeredOk_wrb (hm : m.length < 2 ^ 61) (hn : n < m.length) (h : s.Hashing m n) :
    ∃ t, AnsweredOk (.wrb m[n]) s t ∧ t.AfterBytes m (n + 1) := by
  have habs : s.takeByte.Absorbed (pad m) n := h.absorbed.congr rfl rfl rfl rfl rfl rfl rfl
  have hf : s.takeByte.fill.val < 64 := by rw [habs.fill]; omega
  have he := exec_wrb_of_awaitsByte (b := m[n]) (h.awaitsByte hm hn) hf
  obtain ⟨v, hv, hav, hpv⟩ := exists_reaches_append habs hf (pad_getD_message hn)
  have hsame := hv.sameForMicro
  have hrem : s.takeByte.rem = BitVec.ofNat 64 (m.length - (n + 1)) := by
    rw [State.takeByte, h.rem, show m.length - n = m.length - (n + 1) + 1 by omega, BitVec.ofNat_add]
    exact BitVec.add_sub_cancel _ _
  have hrom : v.romOK = s.romOK := State.romOK_congr (hsame.K.trans (by simp [State.takeByte]))
    (hsame.H0.trans (by simp [State.takeByte]))
  have hhash : v.Hashing m (n + 1) :=
    ⟨hpv.trans h.phase, hsame.len.trans (by simpa [State.takeByte] using h.len), hsame.rem.trans (by simpa using hrem),
      hrom.trans h.rom, hav⟩
  obtain ⟨u, hu, hau⟩ := hhash.exists_reaches_afterBytes hm hn
  exact ⟨u.deliver, hau.answeredOk hm rfl he (State.appended_countable hf habs.idle) (by simp [State.takeByte])
    (by simp [State.takeByte]) (hv.trans hu), hau.deliver⟩

/-- The bytes of the message from the `n`-th on (R242). -/
theorem exists_transactions_wrMsg (hm : m.length < 2 ^ 61) (hn : n ≤ m.length) (h : s.AfterBytes m n) :
    ∃ t, transactions (requestsOf (wrMsg (m.drop n))) s = .next t ∧ t.AfterBytes m m.length ∧
      t.responses = s.responses ++ List.replicate (m.length - n) ⟨.ok, 0#32⟩ := by
  induction hk : m.length - n generalizing n s with
  | zero =>
    obtain rfl : n = m.length := by omega
    rw [List.drop_length]
    exact ⟨s, rfl, h, by simp⟩
  | succ k ih =>
    have hlt : n < m.length := by omega
    obtain ⟨-, hh⟩ | ⟨hend, -⟩ := h
    · obtain ⟨u, hu, hau⟩ := hh.exists_answeredOk_wrb hm hlt
      obtain ⟨t, ht, hat, hresp⟩ := ih hlt hau (by omega)
      rw [List.drop_eq_getElem_cons hlt]
      refine ⟨t, (hu.next _).trans ht, hat, ?_⟩
      rw [hresp, hu.responses, List.replicate_succ, List.append_assoc, List.singleton_append]
    · omega

/-- START begins the run of a message of `LEN` bytes (R220). -/
theorem exists_answeredOk_start (hm : m.length < 2 ^ 61) (hs : s.inIdlePhase) (hrom : s.romOK = true)
    (hlen : s.LEN = BitVec.ofNat 64 m.length) : ∃ t, AnsweredOk .start s t ∧ t.AfterBytes m 0 := by
  have hlong : s.lenTooLong = false := by
    rw [← Bool.not_eq_true, State.lenTooLong_iff, hlen, BitVec.toNat_ofNat]
    omega
  have he := exec_of_performs (.start (hs.accepts rfl) hlong)
  have hhash : State.Hashing (State.respond { s.reseed with rem := s.LEN, fill := 0, blkcnt := 0#64, fphase := .fMsg }
      .ok 0#32) m 0 :=
    ⟨rfl, hlen, hlen, hrom, hs.1, rfl, rfl, rfl, fun _ hj => absurd hj (Nat.not_lt_zero _)⟩
  obtain ⟨u, hu, hau⟩ := hhash.exists_reaches_afterBytes hm (Nat.zero_le _)
  have hcount : State.Countable (State.respond
      { s.reseed with rem := s.LEN, fill := 0, blkcnt := 0#64, fphase := .fMsg } .ok 0#32) :=
    ⟨fun _ => by simp, fun hc => by simp [hs.1] at hc⟩
  exact ⟨u.deliver, hau.answeredOk hm rfl he hcount rfl rfl hu, hau.deliver⟩

/-- SETLEN writes the two halves of `LEN` (R97). -/
theorem transactions_setLen {len : Nat} (hlen : len < 2 ^ 64) (hs : s.inIdlePhase) :
    transactions (requestsOf (setLen len)) s = .next { s with
      LEN := BitVec.ofNat 64 len
      pending := none
      responses := s.responses ++ List.replicate 2 ⟨.ok, 0#32⟩ } := by
  have hq := State.quiescent_of_inIdlePhase hs
  have hlow := exec_of_performs (.wrlenl (v := BitVec.ofNat 32 len) (hs.accepts rfl))
  have hhigh := exec_of_performs (.wrlenh (v := BitVec.ofNat 32 (len / 2 ^ 32)) (State.inIdlePhase.accepts (s := { s with
    LEN := joinHalves (highHalf s.LEN) (BitVec.ofNat 32 len)
    pending := none
    responses := s.responses ++ [⟨.ok, 0#32⟩] }) hs rfl))
  have hjoin : joinHalves (BitVec.ofNat 32 (len / 2 ^ 32))
      (lowHalf (joinHalves (highHalf s.LEN) (BitVec.ofNat 32 len))) = BitVec.ofNat 64 len := by
    apply BitVec.eq_of_toNat_eq
    simp only [toNat_joinHalves, lowHalf_eq_ofNat, BitVec.toNat_ofNat]
    omega
  rw [setLen, transactions_cons_of_answered rfl hlow hq, transactions_cons_of_answered rfl hhigh hq, hjoin]
  simp [requestsOf, transactions]

/-- RDDIGEST answers the Words of `H` and changes nothing (R97, R231). -/
theorem exists_transactions_rdh (l : List (Fin 8)) (hs : s.inIdlePhase) :
    ∃ u, transactions (requestsOf (l.map .rdh)) s = .next u ∧
      u.responses = s.responses ++ l.map fun k => ⟨.ok, s.H.get k⟩ := by
  induction l generalizing s with
  | nil => exact ⟨s, rfl, by simp⟩
  | cons k l ih =>
    have hfirst : transactions (requestsOf ((k :: l).map .rdh)) s = transactions (requestsOf (l.map .rdh))
        { s with responses := s.responses ++ [⟨.ok, s.H.get k⟩], pending := none } :=
      transactions_cons_of_answered rfl (exec_read (hs.accepts rfl) rfl) (State.quiescent_of_inIdlePhase hs)
    obtain ⟨u, hu, hresp⟩ :=
      ih (s := { s with responses := s.responses ++ [⟨.ok, s.H.get k⟩], pending := none }) hs
    refine ⟨u, hfirst.trans hu, hresp.trans ?_⟩
    simp

theorem map_get_finRange (h : Vector Word 8) : (List.finRange 8).map h.get = h.toList := by
  apply List.ext_getElem <;> simp [Vector.get_eq_getElem]

/-- The end of the run in the words of R242. -/
theorem State.Digested.H_eq (h : s.Digested m) : s.H = hashState kTable h0Table m := by
  obtain ⟨hK, hH0⟩ : s.K = kTable ∧ s.H0 = h0Table := by simpa [State.romOK] using h.rom
  rw [h.absorbed.hash, hK, hH0, Nat.mul_div_cancel_left _ (by decide)]
  rfl

theorem State.Digested.blkcnt_eq (hm : m.length < 2 ^ 61) (h : s.Digested m) :
    s.blkcnt.toNat = blockCount m.length := by
  rw [h.absorbed.count, Nat.mul_div_cancel_left _ (by decide), BitVec.toNat_ofNat, blockCount]
  omega

theorem State.Digested.fill_eq (h : s.Digested m) : s.fill = 0 :=
  Fin.ext (h.absorbed.fill.trans (Nat.mul_mod_right _ _))

end
end

end Sys2Proof.Machine

open Sys2Proof Sys2Proof.Machine

/-- Settles O60: SETLEN and START begin the run, each WRB absorbs one byte, and the formatter absorbs the padding. -/
theorem hashProgramComputesTheDigest : Obligations.HashProgramComputesTheDigest := by
  intro s m hrom hs hm
  have hset := transactions_setLen (len := m.length) (by omega) hs
  obtain ⟨v, hv, hav⟩ := exists_answeredOk_start (m := m) (s := { s with
    LEN := BitVec.ofNat 64 m.length
    pending := none
    responses := s.responses ++ List.replicate 2 ⟨.ok, 0#32⟩ }) hm hs hrom rfl
  obtain ⟨t, ht, hat, hresp⟩ := exists_transactions_wrMsg hm (Nat.zero_le _) hav
  obtain ⟨hlt, -⟩ | ⟨-, hd⟩ := hat
  · exact absurd hlt (lt_irrefl _)
  have hidle : t.inIdlePhase := ⟨hd.absorbed.idle, .inr hd.phase⟩
  obtain ⟨u, hu, hread⟩ := exists_transactions_rdh (List.finRange 8) hidle
  refine ⟨t, u, ?_, hd.quiescent, hd.phase, congrArg digestBytes hd.H_eq, hd.blkcnt_eq hm, ?_, hd.rem, hd.fill_eq,
    hd.last, ?_, hu, ?_⟩
  · rw [hashProgram, List.append_assoc, requestsOf_append, transactions_append hset]
    exact (hv.next _).trans ht
  · rw [hd.len, BitVec.toNat_ofNat]
    omega
  · rw [hresp, hv.responses]
    have hcount : m.length + 3 = 2 + 1 + m.length := by omega
    rw [hcount, ← List.replicate_append_replicate, ← List.replicate_append_replicate, ← List.append_assoc,
      ← List.append_assoc]
    rfl
  · rw [hread, ← hd.H_eq, ← map_get_finRange, List.map_map]
    rfl

end

section
/-! SUPPORT. Errors: a refusal is an answer and no more, and the causes of refusal phase by phase.  The last theorems of
the section settle the obligations. -/

namespace Sys2Proof.Machine

section
variable {s t : State} {i : Instr}

/-- An answer changes no register that quiescence reads (R266). -/
theorem State.quiescent_answered {c : RspCode} {w : Word} : (s.answered c w).quiescent = s.quiescent :=
  State.quiescent_congr rfl rfl rfl

/-- A transaction processed in a quiescent state raises an error and does nothing else, or is answered OK (R266). -/
theorem Performs.raises_or_answers_ok (h : Performs s i t) (hi : isTransaction i = true) (hq : s.quiescent = true) :
    (∃ c, t = s.raise c) ∨ ∃ w, t.pending = some ⟨.ok, w⟩ := by
  cases h with
  | busy _ hbusy => simp [hq] at hbusy
  | faulted | outOfTurn | tooLong => exact .inl ⟨_, rfl⟩
  | sched | loadv | round | feed | pad80 | padz | padlen | finish => cases hi
  | _ => exact .inr ⟨_, rfl⟩

/-! ### The code of R267 in each phase the port sees -/

theorem expectedCode_of_inFault (h : s.inFault) : expectedCode i s = if i = .rdstat then .ok else .eInit := by
  by_cases hi : i = .rdstat <;> simp [expectedCode, h.2, hi]

/-- During a run START is out of turn, so that its length is not looked at (R267). -/
theorem expectedCode_of_awaitsByte (h : s.awaitsByte) :
    expectedCode i s = if refusedInRun i = true then .eSeq else .ok := by
  have hstart : refusedInRun i ≠ true → i ≠ .start := by rintro hr rfl; exact hr rfl
  by_cases hr : refusedInRun i = true
  · simp [expectedCode, h.2.1, hr]
  · simp [expectedCode, h.2.1, hr, hstart hr]

theorem expectedCode_of_inIdlePhase (h : s.inIdlePhase) :
    expectedCode i s =
      if refusedOutsideRun i = true then .eSeq else if i = .start ∧ 2 ^ 61 ≤ s.LEN.toNat then .eLen else .ok := by
  obtain ⟨-, hp | hp⟩ := h <;> simp [expectedCode, hp]

/-! ### The answer in each phase the port sees -/

/-- The transaction is answered, with the code that its causes give (R267, R268). -/
def AnswersExpected (i : Instr) (s : State) : Prop :=
  ∃ t r, exec i s = .next t ∧ t.pending = some r ∧ r.code = expectedCode i s

theorem answersExpected_of_inFault (hi : isTransaction i = true) (h : s.inFault) : AnswersExpected i s := by
  rw [AnswersExpected, expectedCode_of_inFault h]
  by_cases hr : i = .rdstat
  · exact ⟨_, _, hr ▸ exec_rdstat_of_inFault h, rfl, (if_pos hr).symm⟩
  · exact ⟨_, _, exec_inFault hi hr h, rfl, (if_neg hr).symm⟩

theorem answersExpected_of_awaitsByte (hi : isTransaction i = true) (h : s.awaitsByte) (hf : s.fill.val ≤ 63) :
    AnswersExpected i s := by
  obtain ⟨t, ht, hp⟩ := exec_awaiting hi h hf
  refine ⟨t, _, ht, hp, ?_⟩
  rw [expectedCode_of_awaitsByte h, State.runAnswer]
  split <;> rfl

theorem answersExpected_of_inIdlePhase (hi : isTransaction i = true) (h : s.inIdlePhase) : AnswersExpected i s := by
  rw [AnswersExpected, expectedCode_of_inIdlePhase h]
  cases i with
  | start =>
    obtain ⟨hbegin, hlong, -, -⟩ := startBeginsADigestRun s
    by_cases hl : 2 ^ 61 ≤ s.LEN.toNat
    · exact ⟨_, _, hlong h hl, rfl, (if_pos ⟨rfl, hl⟩).symm⟩
    · exact ⟨_, _, hbegin h (by omega), rfl, (if_neg (hl ·.2)).symm⟩
  | wrb b =>
    obtain ⟨-, -, hidle, -⟩ := wrbAbsorbsOneByte s b
    exact ⟨_, _, hidle h, rfl, rfl⟩
  | rdstat => exact ⟨_, _, exec_read ⟨State.quiescent_of_inIdlePhase h, rfl⟩ rfl, rfl, rfl⟩
  | rdlenl | rdlenh | rdcntl | rdcnth =>
    exact ⟨_, _, exec_read (State.accepts_working (.inl h) rfl) rfl, rfl, rfl⟩
  | rdh | rdblk => exact ⟨_, _, exec_read (h.accepts rfl) rfl, rfl, rfl⟩
  | abort => exact ⟨_, _, exec_of_performs (.abort (State.accepts_working (.inl h) rfl)), rfl, rfl⟩
  | compress => exact ⟨_, _, exec_of_performs (.compress (h.accepts rfl)), rfl, rfl⟩
  | wrlenl => exact ⟨_, _, exec_of_performs (.wrlenl (h.accepts rfl)), rfl, rfl⟩
  | wrlenh => exact ⟨_, _, exec_of_performs (.wrlenh (h.accepts rfl)), rfl, rfl⟩
  | wrh => exact ⟨_, _, exec_of_performs (.wrh (h.accepts rfl)), rfl, rfl⟩
  | wrblk => exact ⟨_, _, exec_of_performs (.wrblk (h.accepts rfl)), rfl, rfl⟩
  | sched | loadv | round | feed | pad80 | padz | padlen | finish => cases hi

end

end Sys2Proof.Machine

open Sys2Proof Sys2Proof.Machine

/-- Settles O27: a nonzero code can only come from `raise`, which writes the answer alone. -/
theorem errorsChangeNothing : Obligations.ErrorsChangeNothing := by
  refine ⟨fun i s t r hi hq hx hp hc => ?_, fun s hq => ?_⟩
  · obtain ⟨c, rfl⟩ | ⟨w, hok⟩ := (performs_of_exec hx).raises_or_answers_ok hi hq
    · cases hp
      exact ⟨rfl, State.quiescent_answered.trans hq⟩
    · cases hp.symm.trans hok
      exact absurd rfl hc
  · rw [State.refuseIllegal_eq]
    exact ⟨_, by split <;> decide, rfl, State.quiescent_answered.trans hq⟩

/-- Settles O28: the port sees the engine in an idle phase, awaiting a byte, or in the fault phase. -/
theorem responseCodesByPriority : Obligations.ResponseCodesByPriority := by
  intro i s hi hq hf
  obtain ⟨hc, hp | hp | hp | ⟨hp, hr⟩⟩ := State.quiescent_iff.1 hq
  · exact answersExpected_of_inIdlePhase hi ⟨hc, .inl hp⟩
  · exact answersExpected_of_inIdlePhase hi ⟨hc, .inr hp⟩
  · exact answersExpected_of_inFault hi ⟨hc, hp⟩
  · exact answersExpected_of_awaitsByte hi ⟨hc, hp, hr⟩ hf

end

section
/-! SUPPORT. The reset event as a step, and the micro-steps each transaction leaves to make: none where it leaves the
engine quiescent, a compression, or the padding of the message.  The last theorems of the section settle the
obligations. -/

namespace Sys2Proof.Machine

/-- All 72 Words of the ROM are the normative ones (R141). -/
theorem State.romOK_iff {s : State} : s.romOK = true ↔ s.K = kTable ∧ s.H0 = h0Table := by
  simp [State.romOK]

/-- What the formatter has left when `n` bytes of a message are accepted and no more are awaited: PAD80, the zero bytes,
PADLEN, the one or two compressions, FINISH (R151, R301). -/
theorem pad80Left_mod (n : Nat) :
    pad80Left (n % 64) = 1 + zeroBytes n + 1 + 130 * (if n % 64 ≤ 55 then 1 else 2) + 1 := by
  unfold pad80Left padLeft zeroBytes
  split_ifs <;> omega

theorem formatterLeft_fMsg (rem : DWord) (n : Nat) :
    formatterLeft .fMsg rem n = if rem = 0#64 then pad80Left n else 0 := rfl

section
variable {s t : State} {i : Instr}

/-- Every transaction but START, COMPRESS and WRB leaves a quiescent engine quiescent (R301). -/
theorem Performs.quiescent (h : Performs s i t) (hi : isTransaction i = true) (hstart : i ≠ .start)
    (hcompress : i ≠ .compress) (hwrb : ∀ b, i ≠ .wrb b) (hq : s.quiescent = true) : t.quiescent = true := by
  cases h with
  | start | tooLong => exact absurd rfl hstart
  | compress => exact absurd rfl hcompress
  | wrb => exact absurd rfl (hwrb _)
  | abort ha => exact State.quiescent_iff.2 ⟨ha.cphase, .inl rfl⟩
  | sched | loadv | round | feed | pad80 | padz | padlen | finish => cases hi
  | _ => exact (State.quiescent_congr rfl rfl rfl).trans hq

/-- The last byte of a message makes the buffer hold the message's length modulo 64, or completes a block (R42 I3). -/
theorem State.CoreInv.LEN_mod_of_last (hs : s.CoreInv) (h : s.awaitsByte) (hr : s.rem = 1#64) :
    s.LEN.toNat % 64 = (s.fill.val + 1) % 64 := by
  obtain ⟨hc, hp, -⟩ := h
  obtain ⟨hle, -, hcount⟩ := hs.i3 hp
  have hlen := hcount hc
  simp only [hr, BitVec.toNat_ofNat] at hle hlen
  omega

/-- The micro-steps WRB leaves: a compression if the byte completes the block, then what the formatter has left. -/
theorem workLeft_of_exec_wrb {b : Byte} (h : s.awaitsByte) (hx : exec (.wrb b) s = .next t) :
    t.workLeft = if s.fill.val = 63 then 130 + formatterLeft .fMsg (s.rem - 1#64) 0
      else formatterLeft .fMsg (s.rem - 1#64) (s.fill.val + 1) := by
  cases performs_of_exec hx with
  | busy _ hq => simp [State.quiescent_of_awaitsByte h] at hq
  | faulted _ _ hf => simp [h.2.1] at hf
  | outOfTurn _ _ _ ha => simp [(State.accepts_wrb.2 h).2] at ha
  | read _ hw => cases hw
  | wrb _ hf =>
    rw [← h.2.1]
    exact State.appended_workLeft (s := { s with rem := s.rem - 1#64 }) hf h.1

/-- Before the last byte WRB leaves a compression or nothing (R301). -/
theorem workLeft_of_wrb {b : Byte} (h : s.awaitsByte) (hr : s.rem ≠ 1#64) (hx : exec (.wrb b) s = .next t) :
    t.workLeft = if s.fill.val = 63 then 130 else 0 := by
  have hne : s.rem - 1#64 ≠ 0#64 := by bv_omega
  simp [workLeft_of_exec_wrb h hx, formatterLeft_fMsg, hne]

/-- The last byte leaves a compression if it completes a data block, then the padding (R301). -/
theorem workLeft_of_last_wrb {b : Byte} (hs : s.CoreInv) (h : s.awaitsByte) (hr : s.rem = 1#64)
    (hx : exec (.wrb b) s = .next t) :
    t.workLeft = (if s.LEN.toNat % 64 = 0 then 130 else 0) + pad80Left (s.LEN.toNat % 64) := by
  have hroom := hs.countable.room h.1
  rw [workLeft_of_exec_wrb h hx, hs.LEN_mod_of_last h hr, hr, BitVec.sub_self, formatterLeft_fMsg, formatterLeft_fMsg,
    if_pos rfl, if_pos rfl]
  by_cases hlast : s.fill.val = 63
  · simp [hlast]
  · have hmod : (s.fill.val + 1) % 64 = s.fill.val + 1 := Nat.mod_eq_of_lt (by omega)
    simp [hlast, hmod]

end

end Sys2Proof.Machine

open Sys2Proof Sys2Proof.Machine

/-- Settles O56: the work left is none in a quiescent state, and elsewhere that of the compression in progress and of
the padding. -/
theorem microStepsOfATransaction : Obligations.MicroStepsOfATransaction := by
  obtain ⟨hanswer, hillegal⟩ := errorsChangeNothing
  refine ⟨fun s t h hx => ?_, fun s t h hl hx => ?_, fun s t b hs h hx => ⟨fun hr => ?_, fun hr => ?_⟩,
    fun i s t hi hstart hcompress hwrb hq hx => ?_, fun i s t r hi hq hx hp hc => ?_, fun s hq => ?_⟩
  · cases hx.symm.trans ((compressStartsTheCompressor s).1 h)
    exact State.workLeft_of_running (by simp)
  · cases hx.symm.trans ((startBeginsADigestRun s).1 h hl)
    refine (State.workLeft_of_idle ?_).trans (formatterLeft_fMsg s.LEN 0)
    exact h.1
  · exact workLeft_of_wrb h hr hx
  · simp only [workLeft_of_last_wrb hs h hr hx, pad80Left_mod, Nat.add_assoc]
  · exact State.workLeft_eq_zero.2 ((performs_of_exec hx).quiescent hi hstart hcompress hwrb hq)
  · exact State.workLeft_eq_zero.2 (hanswer i s t r hi hq hx hp hc).2
  · obtain ⟨-, -, -, hq'⟩ := hillegal s hq
    exact State.workLeft_eq_zero.2 hq'

/-- Settles O46: an asserted sample makes the step the reset event, and the phase is the verdict on the ROM. -/
theorem resetEventFromAnyState : Obligations.ResetEventFromAnyState := by
  intro s rest hr
  have hasserted : s.resetAsserted = true := by simp [State.resetAsserted, hr]
  rw [step_of_stepsTo (.reset hasserted)]
  simp only [State.resetEvent, State.romOK_iff, State.tickReset, hr, List.tail_cons]

end
